-- ==== Sys2Proof/Word.lean ====
section
/-! DEFINITION. The word types of the CHIP-8 core (spec/00_scope.md R6, R10; spec/30_encoding.md R91): bytes, 16-bit
words, 12-bit address fields, 4-bit fields and register numbers. -/

namespace Sys2Proof

/-- An 8-bit value: a general register, a timer, a memory cell, the immediate `NN`. -/
abbrev Byte := BitVec 8

/-- A 16-bit value: `pc`, `I`, a return-stack entry, an instruction word. -/
abbrev Word := BitVec 16

/-- The 12-bit address field `NNN` of an instruction word (R91, R92). -/
abbrev Addr := BitVec 12

/-- The 4-bit field `N`: the row count of DRAW (R92). -/
abbrev Nibble := BitVec 4

/-- A register number, the value of a 4-bit field `X` or `Y`: always 0..15, so no instruction can name a register
that does not exist (spec/10_state.md R20). -/
abbrev RegIdx := Fin 16

/-- A logical key number 0..15 (R6, spec/40_cycle_step.md R121). -/
abbrev Key := Fin 16

end Sys2Proof
end

