-- ==== Sys2Proof/Syntax.lean ====
section
/-! DEFINITION. The instructions: one constructor per row of spec/opcode_table.json (spec/30_encoding.md R96), with the
operand fields of its format (R93). -/

namespace Sys2Proof

/-- The 34 instructions in the order of R96. `x` and `y` are the fields X and Y, `nn` the byte NN, `nnn` the address NNN,
`n` the row count N (R91). SHR and SHL carry Y although the hardware ignores it (R95), so that no bit of an encoding is
dropped. -/
inductive Instr where
  | cls
  | ret
  | jmp (nnn : Addr)
  | call (nnn : Addr)
  | skeqi (x : RegIdx) (nn : Byte)
  | sknei (x : RegIdx) (nn : Byte)
  | skeqr (x y : RegIdx)
  | ldi (x : RegIdx) (nn : Byte)
  | addi (x : RegIdx) (nn : Byte)
  | mov (x y : RegIdx)
  | or (x y : RegIdx)
  | and (x y : RegIdx)
  | xor (x y : RegIdx)
  | add (x y : RegIdx)
  | sub (x y : RegIdx)
  | shr (x y : RegIdx)
  | rsub (x y : RegIdx)
  | shl (x y : RegIdx)
  | skner (x y : RegIdx)
  | ldidx (nnn : Addr)
  | jmpv0 (nnn : Addr)
  | rnd (x : RegIdx) (nn : Byte)
  | draw (x y : RegIdx) (n : Nibble)
  | skkd (x : RegIdx)
  | skku (x : RegIdx)
  | rddt (x : RegIdx)
  | waitk (x : RegIdx)
  | wrdt (x : RegIdx)
  | wrst (x : RegIdx)
  | addidx (x : RegIdx)
  | font (x : RegIdx)
  | bcd (x : RegIdx)
  | dump (x : RegIdx)
  | load (x : RegIdx)
  deriving DecidableEq, Repr

end Sys2Proof
end

