-- ==== Sys2Proof/WellFormed.lean ====
section
/-! DEFINITION. When an operand value fits its field (spec/30_encoding.md R92). The operand types of `Instr` are exactly as
wide as the fields, so every instruction term meets the checks (`Sys2Proof.Laws.wellFormed_all`); the checks on plain
numbers are what an assembler of R97's syntax would make, and refuse a number too large for its field. -/

namespace Sys2Proof

/-- A register number fits X or Y: "unsigned indices 0..15" (R92). -/
def regFits (n : Nat) : Bool := n < 16

/-- An immediate fits NN: "an unsigned 8-bit value 0..255" (R92). -/
def byteFits (n : Nat) : Bool := n < 256

/-- An address fits NNN: "an unsigned 12-bit value 0..4095" (R92). -/
def addrFits (n : Nat) : Bool := n < 4096

/-- A row count fits N: "an unsigned row count 0..15" (R92). -/
def rowsFit (n : Nat) : Bool := n < 16

/-- Every operand of the instruction fits its field. -/
def Instr.wellFormed : Instr → Bool
  | .cls | .ret => true
  | .jmp nnn | .call nnn | .ldidx nnn | .jmpv0 nnn => addrFits nnn.toNat
  | .skeqi x nn | .sknei x nn | .ldi x nn | .addi x nn | .rnd x nn => regFits x && byteFits nn.toNat
  | .skeqr x y | .mov x y | .or x y | .and x y | .xor x y | .add x y | .sub x y | .shr x y | .rsub x y | .shl x y
  | .skner x y => regFits x && regFits y
  | .draw x y n => regFits x && regFits y && rowsFit n.toNat
  | .skkd x | .skku x | .rddt x | .waitk x | .wrdt x | .wrst x | .addidx x | .font x | .bcd x | .dump x
  | .load x => regFits x

end Sys2Proof
end

