-- ==== Sys2Proof/Decode.lean ====
section
/-! DEFINITION. Decoding (spec/30_encoding.md R91 to R95) and, after it, encoding (R93, R96). PRESUMED: the bit patterns of
31 of the 34 instructions are the spec's own, from general knowledge (D4); log 9; unsafe. DESIGN CHOICE: fixed nibbles match
exactly (D5); log 10; safe. -/

namespace Sys2Proof

/-- Why bytes are no instruction. -/
inductive DecodeError where
  /-- A word of R95: executing it is the fatal UnknownOpcode, whose info is the word. Safe: a wider decoder would go on. -/
  | unknownOpcode (op : Word)
  /-- Fewer than two bytes were given, so there is no whole word (R90). The machine never meets it: fetch gives a word. -/
  | truncated (bytes : List Byte)
  deriving DecidableEq, Repr

/-! ### The fields of a word (R91), as the slices of R10 -/

/-- `T = op[15:12]`, the family selector. -/
def fieldT (op : Word) : Nat := op.toNat / 4096

/-- `X = op[11:8]`. -/
def fieldX (op : Word) : RegIdx := Fin.ofNat 16 (op.toNat / 256)

/-- `Y = op[7:4]`. -/
def fieldY (op : Word) : RegIdx := Fin.ofNat 16 (op.toNat / 16)

/-- `N = op[3:0]`. -/
def fieldN (op : Word) : Nibble := BitVec.ofNat 4 op.toNat

/-- `NN = op[7:0]`. -/
def fieldNN (op : Word) : Byte := BitVec.ofNat 8 op.toNat

/-- `NNN = op[11:0]`. -/
def fieldNNN (op : Word) : Addr := BitVec.ofNat 12 op.toNat

/-! ### Decode (R94) -/

/-- Family 0: the two fixed words, on all 16 bits. -/
def decodeFamily0 (op : Word) : Except DecodeError Instr :=
  if op = 0x00E0 then .ok .cls
  else if op = 0x00EE then .ok .ret
  else .error (.unknownOpcode op)

/-- Family 8: the sub-operation is N. -/
def decodeFamily8 (op : Word) : Except DecodeError Instr :=
  match (fieldN op).toNat with
  | 0x0 => .ok (.mov (fieldX op) (fieldY op))
  | 0x1 => .ok (.or (fieldX op) (fieldY op))
  | 0x2 => .ok (.and (fieldX op) (fieldY op))
  | 0x3 => .ok (.xor (fieldX op) (fieldY op))
  | 0x4 => .ok (.add (fieldX op) (fieldY op))
  | 0x5 => .ok (.sub (fieldX op) (fieldY op))
  | 0x6 => .ok (.shr (fieldX op) (fieldY op))
  | 0x7 => .ok (.rsub (fieldX op) (fieldY op))
  | 0xE => .ok (.shl (fieldX op) (fieldY op))
  | _ => .error (.unknownOpcode op)

/-- Family E: the sub-operation is NN. -/
def decodeFamilyE (op : Word) : Except DecodeError Instr :=
  match (fieldNN op).toNat with
  | 0x9E => .ok (.skkd (fieldX op))
  | 0xA1 => .ok (.skku (fieldX op))
  | _ => .error (.unknownOpcode op)

/-- Family F: the sub-operation is NN. -/
def decodeFamilyF (op : Word) : Except DecodeError Instr :=
  match (fieldNN op).toNat with
  | 0x07 => .ok (.rddt (fieldX op))
  | 0x0A => .ok (.waitk (fieldX op))
  | 0x15 => .ok (.wrdt (fieldX op))
  | 0x18 => .ok (.wrst (fieldX op))
  | 0x1E => .ok (.addidx (fieldX op))
  | 0x29 => .ok (.font (fieldX op))
  | 0x33 => .ok (.bcd (fieldX op))
  | 0x55 => .ok (.dump (fieldX op))
  | 0x65 => .ok (.load (fieldX op))
  | _ => .error (.unknownOpcode op)

/-- `Decode(op)` of R94: a pure function of the fetched word, total on all 65536 words. -/
def decodeWord (op : Word) : Except DecodeError Instr :=
  match fieldT op with
  | 0x0 => decodeFamily0 op
  | 0x1 => .ok (.jmp (fieldNNN op))
  | 0x2 => .ok (.call (fieldNNN op))
  | 0x3 => .ok (.skeqi (fieldX op) (fieldNN op))
  | 0x4 => .ok (.sknei (fieldX op) (fieldNN op))
  | 0x5 => if fieldN op = 0 then .ok (.skeqr (fieldX op) (fieldY op)) else .error (.unknownOpcode op)
  | 0x6 => .ok (.ldi (fieldX op) (fieldNN op))
  | 0x7 => .ok (.addi (fieldX op) (fieldNN op))
  | 0x8 => decodeFamily8 op
  | 0x9 => if fieldN op = 0 then .ok (.skner (fieldX op) (fieldY op)) else .error (.unknownOpcode op)
  | 0xA => .ok (.ldidx (fieldNNN op))
  | 0xB => .ok (.jmpv0 (fieldNNN op))
  | 0xC => .ok (.rnd (fieldX op) (fieldNN op))
  | 0xD => .ok (.draw (fieldX op) (fieldY op) (fieldN op))
  | 0xE => decodeFamilyE op
  | 0xF => decodeFamilyF op
  | _ => .error (.unknownOpcode op)

/-- Bytes as one number, the first byte the most significant (spec/20_memory.md R68: `hi * 256 + lo`). -/
def bigEndian (bytes : List Byte) : Nat := bytes.foldl (fun acc b => acc * 256 + b.toNat) 0

/-- Decode the instruction at the head of `bytes` and give back the rest: two bytes, most significant first (R90). -/
def decode : List Byte → Except DecodeError (Instr × List Byte)
  | hi :: lo :: rest => (decodeWord (BitVec.ofNat 16 (bigEndian [hi, lo]))).map fun i => (i, rest)
  | short => .error (.truncated short)

/-! ### Encode (R93, R96) -/

/-- The fixed bits of the instruction's row: the column "Match" of R96. -/
def Instr.matchBits : Instr → Nat
  | .cls => 0x00E0
  | .ret => 0x00EE
  | .jmp _ => 0x1000
  | .call _ => 0x2000
  | .skeqi _ _ => 0x3000
  | .sknei _ _ => 0x4000
  | .skeqr _ _ => 0x5000
  | .ldi _ _ => 0x6000
  | .addi _ _ => 0x7000
  | .mov _ _ => 0x8000
  | .or _ _ => 0x8001
  | .and _ _ => 0x8002
  | .xor _ _ => 0x8003
  | .add _ _ => 0x8004
  | .sub _ _ => 0x8005
  | .shr _ _ => 0x8006
  | .rsub _ _ => 0x8007
  | .shl _ _ => 0x800E
  | .skner _ _ => 0x9000
  | .ldidx _ => 0xA000
  | .jmpv0 _ => 0xB000
  | .rnd _ _ => 0xC000
  | .draw _ _ _ => 0xD000
  | .skkd _ => 0xE09E
  | .skku _ => 0xE0A1
  | .rddt _ => 0xF007
  | .waitk _ => 0xF00A
  | .wrdt _ => 0xF015
  | .wrst _ => 0xF018
  | .addidx _ => 0xF01E
  | .font _ => 0xF029
  | .bcd _ => 0xF033
  | .dump _ => 0xF055
  | .load _ => 0xF065

/-- Which bits of the word are fixed: the mask of the instruction's format (R93). -/
def Instr.mask : Instr → Word
  | .cls | .ret => 0xFFFF
  | .jmp _ | .call _ | .ldidx _ | .jmpv0 _ => 0xF000
  | .skeqi _ _ | .sknei _ _ | .ldi _ _ | .addi _ _ | .rnd _ _ => 0xF000
  | .skeqr _ _ | .mov _ _ | .or _ _ | .and _ _ | .xor _ _ | .add _ _ | .sub _ _ | .shr _ _ | .rsub _ _ | .shl _ _
  | .skner _ _ => 0xF00F
  | .draw _ _ _ => 0xF000
  | .skkd _ | .skku _ | .rddt _ | .waitk _ | .wrdt _ | .wrst _ | .addidx _ | .font _ | .bcd _ | .dump _
  | .load _ => 0xF0FF

/-- The operand bits of the word: each operand at the position of its field (R91, R93). -/
def Instr.operandBits : Instr → Nat
  | .cls | .ret => 0
  | .jmp nnn | .call nnn | .ldidx nnn | .jmpv0 nnn => nnn.toNat
  | .skeqi x nn | .sknei x nn | .ldi x nn | .addi x nn | .rnd x nn => x.val * 256 + nn.toNat
  | .skeqr x y | .mov x y | .or x y | .and x y | .xor x y | .add x y | .sub x y | .shr x y | .rsub x y | .shl x y
  | .skner x y => x.val * 256 + y.val * 16
  | .draw x y n => x.val * 256 + y.val * 16 + n.toNat
  | .skkd x | .skku x | .rddt x | .waitk x | .wrdt x | .wrst x | .addidx x | .font x | .bcd x | .dump x
  | .load x => x.val * 256

/-- The instruction's word. -/
def encode (i : Instr) : Word := BitVec.ofNat 16 (i.matchBits + i.operandBits)

/-- A word as memory holds it: most significant byte first (R68, R90). -/
def wordBytes (op : Word) : List Byte := [BitVec.ofNat 8 (op.toNat / 256), BitVec.ofNat 8 op.toNat]

/-- The instruction's two bytes. -/
def encodeBytes (i : Instr) : List Byte := wordBytes (encode i)

/-- What the decoder reads from the word `w` of `nbits` bits, numbered as spec/opcode_table.json numbers them: the word is
laid out big-endian and its bytes given to `decode`. -/
def decodeTableWord (nbits w : Nat) : Option Instr :=
  match decode (wordBytes (BitVec.ofNat 16 (w % 2 ^ nbits))) with
  | .ok (i, _) => some i
  | .error _ => none

end Sys2Proof
end

