-- ==== Sys2Proof/Config.lean ====
section
/-! DEFINITION. What an implementation fixes (spec/00_scope.md R7: the open parameters, each with the spec's default)
and the free values: what the spec leaves open, as constants without a body. -/

namespace Sys2Proof

/-- The implementation parameters of spec/00_scope.md R7. -/
structure Config where
  /-- `STACK_CAPACITY`, at least 1 (D1). -/
  stackCapacity : Nat
  /-- `FONT_BASE`, with `FONT_BASE + 80 <= 0x200` (D2). -/
  fontBase : Nat
  /-- `FONT_DATA`, 80 bytes, glyph d at offsets 5d..5d+4 (D3). -/
  fontData : List Byte
  deriving DecidableEq, Repr

/-- The constraints R7 puts on the parameters. -/
def Config.Ok (c : Config) : Prop :=
  1 ≤ c.stackCapacity ∧ c.fontBase + 80 ≤ 0x200 ∧ c.fontData.length = 80

/-- The default `FONT_DATA`: the table of spec/20_memory.md R72, glyphs 0 to 7. PRESUMED: the spec takes the bytes from
general knowledge (D3); log 8; unsafe. -/
def fontGlyphsLow : List Byte :=
  [0xF0, 0x90, 0x90, 0x90, 0xF0,  0x20, 0x60, 0x20, 0x20, 0x70,  0xF0, 0x10, 0xF0, 0x80, 0xF0,  0xF0, 0x10, 0xF0, 0x10, 0xF0,
   0x90, 0x90, 0xF0, 0x10, 0x10,  0xF0, 0x80, 0xF0, 0x10, 0xF0,  0xF0, 0x80, 0xF0, 0x90, 0xF0,  0xF0, 0x10, 0x20, 0x40, 0x40]

/-- The default `FONT_DATA`, glyphs 8 to F (R72; log 8). -/
def fontGlyphsHigh : List Byte :=
  [0xF0, 0x90, 0xF0, 0x90, 0xF0,  0xF0, 0x90, 0xF0, 0x10, 0xF0,  0xF0, 0x90, 0xF0, 0x90, 0x90,  0xE0, 0x90, 0xE0, 0x90, 0xE0,
   0xF0, 0x80, 0x80, 0x80, 0xF0,  0xE0, 0x90, 0x90, 0x90, 0xE0,  0xF0, 0x80, 0xF0, 0x80, 0xF0,  0xF0, 0x80, 0xF0, 0x80, 0x80]

/-- The parameters of this machine: the defaults of R7. DESIGN CHOICE: STACK_CAPACITY 16 (log 6) and FONT_BASE 0
(log 7); unsafe if the hardware's differ. -/
def config : Config where
  stackCapacity := 16
  fontBase := 0x000
  fontData := fontGlyphsLow ++ fontGlyphsHigh

/-- The four inputs the host presents to one cycle, sampled once at its start (spec/40_cycle_step.md R121). -/
structure CycleInputs where
  /-- `tick_timers`: tick both timers at the end of this cycle. -/
  tickTimers : Bool
  /-- `key_down[k]`, bit k for key k. -/
  keyDown : BitVec 16
  /-- `last_key`: none, or the key reported to the blocking read. -/
  lastKey : Option Key
  /-- `rand_byte`. -/
  randByte : Byte
  deriving DecidableEq, Repr, Inhabited

/-- Free value: the inputs of a cycle for which the state lists none, for the value `draws` of the draw counter. R121 says
the core assumes nothing of them (D18, D19, D20); log 4; safe. -/
opaque Config.hostInputs : Nat → CycleInputs

/-- Free value: what register 15 holds after ADD, SUB, SHR, RSUB or SHL with X = 15 (spec/42_alu.md R176, D9), for the value
`draws` of the draw counter; log 3; safe. -/
opaque Config.flagClash : Nat → Byte

/-- The state elements that a fatal leaves unspecified (spec/60_exceptions.md R253). -/
structure LostState where
  v : Nat → Byte
  pc : Word
  i : Word
  stack : Nat → Word
  depth : Nat
  dt : Byte
  st : Byte
  pixel : Nat → Nat → Bool
  dirty : Bool
  mem : Nat → Byte
  initial : Bool
  deriving Inhabited

/-- Free value: everything R253 leaves unspecified after a fatal, for the value `draws` of the draw counter; log 2; safe. -/
opaque Config.lost : Nat → LostState

end Sys2Proof
end

