-- ==== Sys2Proof/Machine/State.lean ====
section
/-! DEFINITION. The state of the machine (spec/10_state.md), the fatal causes, and the state after reset. -/

namespace Sys2Proof.Machine

/-- The causes of the one kind of exception, the fatal (spec/60_exceptions.md R251). A fatal does not end a run of this
model: the spec says what state it leaves (R252), so it is a NEXT state whose fault latch holds the cause (log 1), and the
outcome `fault` is answered by no step. The codes are the spec's labels (D15; log 23). -/
inductive Fault where
  /-- Code 1. Raised by decode (sub-step 3) for a word of spec/30_encoding.md R95. Safe. -/
  | unknownOpcode
  /-- Code 2. Raised by fetch, DRAW, BCD, DUMP, LOAD and the ROM copy of reset for an access above 4095. Safe. -/
  | memoryOutOfRange
  /-- Code 3. Raised by CALL on a full stack. Safe where the capacity is as configured (log 6). -/
  | stackOverflow
  /-- Code 4. Raised by RET on an empty stack. Safe. -/
  | stackUnderflow
  /-- Code 5. Raised by nothing: a register number is a 4-bit field (spec/90_conflicts.md C5). Safe. -/
  | registerOutOfRange
  /-- Code 6. Raised by SKKD and SKKU for a key number above 15 (D12; log 13). Safe. -/
  | keyOutOfRange
  /-- Code 7. Raised by FONT for a digit above 15 (D13; log 14). Safe. -/
  | glyphOutOfRange
  deriving DecidableEq, Repr

/-- Why an instruction has no meaning in the model. -/
inductive Refusal where
  /-- Raised by `exec` for an instruction without a meaning; every instruction has one, so by nothing now. Safe. -/
  | notModelled (mnemonic : String)
  deriving DecidableEq, Repr

/-- Memory as its listed cells; what an unlisted address reads as is `Memory.unlisted`. Canonical form: `Memory.wf`. -/
abbrev Memory := List Host.Cell

/-- The 64 x 32 framebuffer: `fb[y][x]`, 32 rows of 64 pixels, true for on (spec/10_state.md R32). -/
abbrev Framebuffer := Vector (Vector Bool 64) 32

/-- Everything the spec gives the machine (spec/10_state.md, summary table), and two fields of the model's own. -/
structure State where
  /-- `V[0..15]` (R20); register 15 is the flag VF (R22). -/
  v : Vector Byte 16
  /-- `pc` (R24). -/
  pc : Word
  /-- `I` (R27). -/
  i : Word
  /-- `stack[0..STACK_CAPACITY-1]` (R28). -/
  stack : Vector Word config.stackCapacity
  /-- `depth` (R28). -/
  depth : Nat
  /-- `DT`, the delay timer (R30). -/
  dt : Byte
  /-- `ST`, the sound timer (R30). -/
  st : Byte
  /-- `fb` (R32, R33). -/
  fb : Framebuffer
  /-- `dirty` (R34). -/
  dirty : Bool
  /-- `mem[0..4095]` (R37). -/
  mem : Memory
  /-- `initial` (R36). -/
  initial : Bool
  /-- `halted` (R38). -/
  halted : Bool
  /-- `fault_cause` (R38). -/
  faultCause : Option Fault
  /-- `fault_info` (R38), a natural number: addresses are not reduced (spec/20_memory.md R62). -/
  faultInfo : Option Nat
  /-- The model's own: the inputs the host will present to the coming cycles, the soonest first (log 4). -/
  inputs : List CycleInputs
  /-- The model's own: how many times free values were drawn (log 4, log 5). -/
  draws : Nat
  deriving DecidableEq, Repr

/-- A framebuffer of off pixels. -/
def Framebuffer.blank : Framebuffer := Vector.replicate 32 (Vector.replicate 64 false)

/-- The state after `reset(ROM)` with a ROM of length 0 (spec/70_reset_and_hazards.md R281, R284): memory lists nothing, so
every cell reads as the font or 0. A ROM is loaded by `State.resetWith` (log 21). Stated by the spec: `pc`, `fb`, `initial`,
the font's place (R282). DESIGN CHOICE, the spec's own decisions: zeros (D6; log 11), `dirty` and `halted` (D7, D14; log 12);
unsafe. DESIGN CHOICE, the model's own fields: `inputs`, `draws` (log 5). -/
def State.reset : State where
  v := Vector.replicate 16 0
  pc := 0x0200
  i := 0
  stack := Vector.replicate config.stackCapacity 0
  depth := 0
  dt := 0
  st := 0
  fb := Framebuffer.blank
  dirty := true
  mem := []
  initial := true
  halted := false
  faultCause := none
  faultInfo := none
  inputs := []
  draws := 0

end Sys2Proof.Machine
end

