-- ==== Sys2Proof/Machine/Ops.lean ====
section
/-! DEFINITION. The named operations over memory, registers, the return stack, the timers and the framebuffer, and taking a
fatal. All later meanings go through these. -/

namespace Sys2Proof.Machine

/-! ### Memory (spec/20_memory.md) -/

/-- What an address that memory does not list reads as: the reset contents (spec/10_state.md R37): `FONT_DATA` at
`FONT_BASE`, and 0 elsewhere. DESIGN CHOICE (the spec's D6): 0 for cells outside the font; log 11; unsafe. Above 4095 there
is no cell and no access comes here (R62; log 24). -/
def Memory.unlisted (a : Nat) : Byte :=
  if config.fontBase ≤ a then config.fontData.getD (a - config.fontBase) 0 else 0

/-- The byte at an address. -/
def Memory.read (m : Memory) (a : Nat) : Byte :=
  match m with
  | [] => Memory.unlisted a
  | (k, b) :: rest => if k = a then b else Memory.read rest a

/-- One list entry put in front, unless it says what an unlisted address reads as anyway. -/
def Memory.entry (a : Nat) (b : Byte) (rest : Memory) : Memory :=
  if b = Memory.unlisted a then rest else (a, b) :: rest

/-- Write one byte, keeping the canonical form. -/
def Memory.write (m : Memory) (a : Nat) (b : Byte) : Memory :=
  match m with
  | [] => Memory.entry a b []
  | (k, c) :: rest =>
    if a < k then Memory.entry a b ((k, c) :: rest)
    else if a = k then Memory.entry a b rest
    else (k, c) :: Memory.write rest a b

/-- Write bytes at ascending addresses from `a` (R69). -/
def Memory.writeList (m : Memory) (a : Nat) : List Byte → Memory
  | [] => m
  | b :: bs => Memory.writeList (m.write a b) (a + 1) bs

/-- Read `n` bytes at ascending addresses from `a` (R69). -/
def Memory.readList (m : Memory) (a n : Nat) : List Byte := (List.range n).map fun k => m.read (a + k)

/-- The memory, in canonical form, whose byte at each address 0..4095 is given by `f`. Irreducible, so that no proof about a
fatal unfolds 4096 cells by accident. -/
@[irreducible] def Memory.ofBytes (f : Nat → Byte) : Memory :=
  ((List.range 4096).filter fun a => f a != Memory.unlisted a).map fun a => (a, f a)

/-- The canonical form: addresses strictly rising and below 4096, and no entry that says what its address reads as anyway. -/
abbrev Memory.wf (m : Memory) : Prop :=
  m.Pairwise (fun c d => c.1 < d.1) ∧ ∀ c ∈ m, c.1 < 4096 ∧ c.2 ≠ Memory.unlisted c.1

/-- The result of an operation that may raise a fatal: the cause and the info of R251, or a value. -/
abbrev Checked (α : Type) := Except (Fault × Nat) α

/-- `MemRead(addr, n)` (R63): the range check on the unreduced address (R62, D16; log 15), then the bytes in ascending
order. A read of no bytes is checked too (D17; log 15). -/
def State.memRead (s : State) (addr n : Nat) : Checked (List Byte) :=
  if n = 0 then
    if 4095 < addr then .error (.memoryOutOfRange, addr) else .ok []
  else if 4095 < addr + n - 1 then .error (.memoryOutOfRange, addr + n - 1)
  else .ok (s.mem.readList addr n)

/-- `MemWrite(addr, n, bytes)` with n the length of `bytes` (R64): the whole range is checked before the first byte is
written. -/
def State.memWrite (s : State) (addr : Nat) (bytes : List Byte) : Checked State :=
  if 4095 < addr + bytes.length - 1 then .error (.memoryOutOfRange, addr + bytes.length - 1)
  else .ok { s with mem := s.mem.writeList addr bytes }

/-! ### Registers (spec/10_state.md R20 to R27) -/

/-- The flag register VF (R22). -/
def vf : RegIdx := 15

/-- `V[x]`. -/
def State.reg (s : State) (x : RegIdx) : Byte := s.v[x]

/-- `V[x] <- b`. -/
def State.setReg (s : State) (x : RegIdx) (b : Byte) : State := { s with v := s.v.set x b }

/-- `V[k] <- bytes[k]` for every k that `bytes` has (spec/43_index_memory.md R195). -/
def State.setRegs (s : State) (bytes : List Byte) : State :=
  { s with v := Vector.ofFn fun r : RegIdx => bytes.getD r (s.reg r) }

/-- `I <- a`. -/
def State.setIndex (s : State) (a : Word) : State := { s with i := a }

/-- `pc <- target`. -/
def State.jumpTo (s : State) (target : Word) : State := { s with pc := target }

/-- The next sequential instruction, `pc <- pc0 + 2` (spec/40_cycle_step.md R126; above 65531 it wraps, log 18). -/
def State.advance (s : State) : State := { s with pc := s.pc + 2 }

/-- `pc <- pc0 + 4` if the condition holds, else `pc0 + 2` (R126). -/
def State.skipIf (s : State) (c : Bool) : State := { s with pc := s.pc + if c then 4 else 2 }

/-! ### Return stack (R28, R29) -/

/-- `Push(a)`: fatal on a full stack. A depth above the capacity is reached by no run and counts as full (log 25). -/
def State.push (s : State) (a : Word) : Checked State :=
  if s.depth < config.stackCapacity then
    .ok { s with stack := s.stack.setIfInBounds s.depth a, depth := s.depth + 1 }
  else .error (.stackOverflow, a.toNat)

/-- The entry at a position of the stack array; 0 beyond the array, where no run reads (log 25). -/
def State.stackAt (s : State) (k : Nat) : Word := s.stack[k]?.getD 0

/-- `Pop()`: the popped value and the state after it; fatal on an empty stack. -/
def State.pop (s : State) : Checked (Word × State) :=
  if s.depth = 0 then .error (.stackUnderflow, 0)
  else .ok (s.stackAt (s.depth - 1), { s with depth := s.depth - 1 })

/-! ### Timers (R30, R31) -/

/-- `Tick(t)`: one less, floored at zero. -/
def tick (t : Byte) : Byte := if t = 0 then 0 else t - 1

/-- Sub-step 5: both timers are ticked, or neither (spec/40_cycle_step.md R127). -/
def State.tickIf (s : State) (c : Bool) : State :=
  { s with dt := if c then tick s.dt else s.dt, st := if c then tick s.st else s.st }

/-! ### Framebuffer (R32 to R34) -/

/-- `fb[y][x]`. -/
def Framebuffer.pixel (fb : Framebuffer) (x : Fin 64) (y : Fin 32) : Bool := fb[y][x]

/-- `fb[y][x] <- p`. -/
def Framebuffer.setPixel (fb : Framebuffer) (x : Fin 64) (y : Fin 32) (p : Bool) : Framebuffer :=
  fb.set y (fb[y].set x p)

/-- `dirty <- 0`: sub-step 2 of a cycle (spec/40_cycle_step.md R123). -/
def State.clearDirty (s : State) : State := { s with dirty := false }

/-! ### Inputs of the cycle (spec/40_cycle_step.md R121) -/

/-- The inputs of this cycle: the first listed, or a free value where none is listed (log 4; which instructions read them,
log 26). -/
def State.input (s : State) : CycleInputs := s.inputs.headD (Config.hostInputs s.draws)

/-- The cycle's inputs are used up: the next cycle has others. -/
def State.dropInput (s : State) : State := { s with inputs := s.inputs.tail }

/-! ### Taking a fatal (spec/60_exceptions.md R252, R253) -/

/-- `raise Fatal(cause, info)`: the latch is set (R252), and everything else the machine holds is left unspecified (R253):
free values, drawn afresh (log 2). The limits that hold of every value of a field stay: depth is 0..STACK_CAPACITY and memory
is in canonical form. There is no vector, handler, saved pc or return (R252, R258). -/
def State.fatal (s : State) (cause : Fault) (info : Nat) : State :=
  let lost := Config.lost s.draws
  { v := Vector.ofFn fun r : Fin 16 => lost.v r
    pc := lost.pc
    i := lost.i
    stack := Vector.ofFn fun k : Fin config.stackCapacity => lost.stack k
    depth := min lost.depth config.stackCapacity
    dt := lost.dt
    st := lost.st
    fb := Vector.ofFn fun y : Fin 32 => Vector.ofFn fun x : Fin 64 => lost.pixel x y
    dirty := lost.dirty
    mem := Memory.ofBytes lost.mem
    initial := lost.initial
    halted := true
    faultCause := some cause
    faultInfo := some info
    inputs := s.inputs
    draws := s.draws + 1 }

/-- End an instruction that may raise a fatal: its result, or the fatal taken from the state it started in. -/
def State.attempt (s : State) (r : Checked State) : Host.Outcome State Fault Refusal :=
  match r with
  | .ok t => .next t
  | .error (cause, info) => .next (s.fatal cause info)

/-! ### Fetch (spec/40_cycle_step.md R122) -/

/-- `op <- MemRead(pc, 2)` as 16 big-endian bits (R66, R68); `pc` may be odd (log 28). -/
def State.fetch (s : State) : Checked Word :=
  match s.memRead s.pc.toNat 2 with
  | .ok bytes => .ok (BitVec.ofNat 16 (bigEndian bytes))
  | .error e => .error e

end Sys2Proof.Machine
end

