-- ==== Sys2Proof/Machine/Operands.lean ====
section
/-! DEFINITION. The operand forms: widened immediates and registers, the effective address, key numbers and glyph digits
with their range checks, the decimal digits of BCD, the registers of DUMP. -/

namespace Sys2Proof.Machine

/-- `zext_16(NNN)` (spec/30_encoding.md R92). -/
def addrWord (nnn : Addr) : Word := nnn.setWidth 16

/-- `zext_16(V[x])`. -/
def byteWord (b : Byte) : Word := b.setWidth 16

/-- A key number as an 8-bit register value, zero-extended (spec/45_keys_timers.md R232). -/
def keyByte (k : Key) : Byte := BitVec.ofNat 8 k

/-- The base of the one addressing mode, "index plus constant offset": `I` as an unreduced number (spec/43_index_memory.md,
opening text; spec/20_memory.md R62). -/
def State.indexAddr (s : State) : Nat := s.i.toNat

/-- A register value as a key number: fatal above 15 (R230). DESIGN CHOICE (the spec's D12); log 13; safe. -/
def keyNumber (b : Byte) : Checked Key :=
  if h : b.toNat < 16 then .ok ⟨b.toNat, h⟩ else .error (.keyOutOfRange, b.toNat)

/-- A register value as a glyph digit: fatal above 15 (R192). DESIGN CHOICE (the spec's D13); log 14; safe. -/
def glyphDigit (b : Byte) : Checked Nat :=
  if b.toNat < 16 then .ok b.toNat else .error (.glyphOutOfRange, b.toNat)

/-- The address of a digit's glyph, `FONT_BASE + 5 * d` (R192). -/
def glyphAddr (d : Nat) : Word := BitVec.ofNat 16 (config.fontBase + 5 * d)

/-- Hundreds, tens and ones of a byte (R193). -/
def bcdDigits (b : Byte) : List Byte :=
  [BitVec.ofNat 8 (b.toNat / 100), BitVec.ofNat 8 (b.toNat / 10 % 10), BitVec.ofNat 8 (b.toNat % 10)]

/-- `[V[0], ..., V[x]]` (R194). -/
def State.regsUpTo (s : State) (x : RegIdx) : List Byte := s.v.toList.take (x.val + 1)

/-- Is key `k` down in this cycle? (`key_down[k]`, spec/40_cycle_step.md R121) -/
def State.keyIsDown (s : State) (k : Key) : Bool := s.input.keyDown.getLsbD k

end Sys2Proof.Machine
end

