-- ==== Sys2Proof/Machine/Flags.lean ====
section
/-! DEFINITION. Every flag computation the spec gives, and the writing of VF. VF is the only flag (spec/10_state.md R22). -/

namespace Sys2Proof.Machine

/-- A flag as VF holds it: 1 or 0 (R22; for the collision flag DESIGN CHOICE, the spec's D11; log 17; unsafe). -/
def flagByte (c : Bool) : Byte := if c then 1 else 0

/-- Carry of ADD: "1 iff the unsigned sum exceeds 255" (spec/42_alu.md R167, R169). -/
def carry (x y : Byte) : Bool := 255 < x.toNat + y.toNat

/-- Flag of SUB and RSUB: minuend > subtrahend, strictly, so 0 on equal operands (R167; spec/90_conflicts.md C1). -/
def exceeds (minuend subtrahend : Byte) : Bool := subtrahend.toNat < minuend.toNat

/-- Flag of SHR: the old bit 0 (R171). -/
def lowBit (x : Byte) : Bool := x.getLsbD 0

/-- Flag of SHL: the old bit 7 (R173). -/
def topBit (x : Byte) : Bool := x.getLsbD 7

/-- Write the result of ADD, SUB, SHR, RSUB or SHL to `V[x]` and its flag to VF. For x = 15 both go to VF and the spec leaves
its final value open (R176, D9): a free value (log 3); nothing else changes. -/
def State.setResultAndFlag (s : State) (x : RegIdx) (result : Byte) (flag : Bool) : State :=
  if x = vf then s.setReg vf (Config.flagClash s.draws)
  else (s.setReg x result).setReg vf (flagByte flag)

end Sys2Proof.Machine
end

