-- ==== Sys2Proof/Machine/Alu.lean ====
section
/-! DEFINITION. The meanings of LDI, ADDI, MOV, OR, AND, XOR, ADD, SUB, SHR, RSUB, SHL, RND (spec/42_alu.md). Operands are read
before anything is written (spec/00_scope.md R12; D8; log 19). Every one has next `pc = pc0 + 2`. -/

namespace Sys2Proof.Machine

/-- LDI VX, NN (R160). -/
def execLdi (x : RegIdx) (nn : Byte) (s : State) : Host.Outcome State Fault Refusal :=
  .next (s.setReg x nn).advance

/-- ADDI VX, NN (R161): modulo 256, no flag effect. -/
def execAddi (x : RegIdx) (nn : Byte) (s : State) : Host.Outcome State Fault Refusal :=
  .next (s.setReg x (s.reg x + nn)).advance

/-- MOV VX, VY (R162). -/
def execMov (x y : RegIdx) (s : State) : Host.Outcome State Fault Refusal :=
  .next (s.setReg x (s.reg y)).advance

/-- OR VX, VY (R163): VF is not written. -/
def execOr (x y : RegIdx) (s : State) : Host.Outcome State Fault Refusal :=
  .next (s.setReg x (s.reg x ||| s.reg y)).advance

/-- AND VX, VY (R164): VF is not written. -/
def execAnd (x y : RegIdx) (s : State) : Host.Outcome State Fault Refusal :=
  .next (s.setReg x (s.reg x &&& s.reg y)).advance

/-- XOR VX, VY (R165): VF is not written. -/
def execXor (x y : RegIdx) (s : State) : Host.Outcome State Fault Refusal :=
  .next (s.setReg x (s.reg x ^^^ s.reg y)).advance

/-- ADD VX, VY (R169). -/
def execAdd (x y : RegIdx) (s : State) : Host.Outcome State Fault Refusal :=
  .next (s.setResultAndFlag x (s.reg x + s.reg y) (carry (s.reg x) (s.reg y))).advance

/-- SUB VX, VY (R170). -/
def execSub (x y : RegIdx) (s : State) : Host.Outcome State Fault Refusal :=
  .next (s.setResultAndFlag x (s.reg x - s.reg y) (exceeds (s.reg x) (s.reg y))).advance

/-- SHR VX (R171): VX in place; Y is ignored (R168). -/
def execShr (x _y : RegIdx) (s : State) : Host.Outcome State Fault Refusal :=
  .next (s.setResultAndFlag x (s.reg x >>> 1) (lowBit (s.reg x))).advance

/-- RSUB VX, VY (R172). -/
def execRsub (x y : RegIdx) (s : State) : Host.Outcome State Fault Refusal :=
  .next (s.setResultAndFlag x (s.reg y - s.reg x) (exceeds (s.reg y) (s.reg x))).advance

/-- SHL VX (R173): VX in place; Y is ignored (R168). -/
def execShl (x _y : RegIdx) (s : State) : Host.Outcome State Fault Refusal :=
  .next (s.setResultAndFlag x (s.reg x <<< 1) (topBit (s.reg x))).advance

/-- RND VX, NN (R174): the cycle's random byte, masked. -/
def execRnd (x : RegIdx) (nn : Byte) (s : State) : Host.Outcome State Fault Refusal :=
  .next (s.setReg x (s.input.randByte &&& nn)).advance

end Sys2Proof.Machine
end

