-- ==== Sys2Proof/Machine/Control.lean ====
section
/-! DEFINITION. The meanings of RET, JMP, CALL, JMPV0, SKEQI, SKNEI, SKEQR, SKNER (spec/41_control_flow.md). Each is sub-step 4
of the cycle (spec/40_cycle_step.md R120): `s.pc` is `pc0`, the instruction's own address. -/

namespace Sys2Proof.Machine

/-- RET (R140): pc is the popped value as it is. Fatal StackUnderflow on an empty stack. -/
def execRet (s : State) : Host.Outcome State Fault Refusal :=
  s.attempt (s.pop.map fun p => p.2.jumpTo p.1)

/-- JMP NNN (R141). -/
def execJmp (nnn : Addr) (s : State) : Host.Outcome State Fault Refusal :=
  .next (s.jumpTo (addrWord nnn))

/-- CALL NNN (R142): push `pc0 + 2`, jump. Fatal StackOverflow on a full stack. -/
def execCall (nnn : Addr) (s : State) : Host.Outcome State Fault Refusal :=
  s.attempt ((s.push (s.pc + 2)).map fun t => t.jumpTo (addrWord nnn))

/-- JMPV0 NNN (R143): the 16-bit sum, not reduced to 12 bits (D26; log 20). -/
def execJmpv0 (nnn : Addr) (s : State) : Host.Outcome State Fault Refusal :=
  .next (s.jumpTo (addrWord nnn + byteWord (s.reg 0)))

/-- SKEQI VX, NN (R144). -/
def execSkeqi (x : RegIdx) (nn : Byte) (s : State) : Host.Outcome State Fault Refusal :=
  .next (s.skipIf (s.reg x == nn))

/-- SKNEI VX, NN (R145). -/
def execSknei (x : RegIdx) (nn : Byte) (s : State) : Host.Outcome State Fault Refusal :=
  .next (s.skipIf (s.reg x != nn))

/-- SKEQR VX, VY (R146). -/
def execSkeqr (x y : RegIdx) (s : State) : Host.Outcome State Fault Refusal :=
  .next (s.skipIf (s.reg x == s.reg y))

/-- SKNER VX, VY (R147). -/
def execSkner (x y : RegIdx) (s : State) : Host.Outcome State Fault Refusal :=
  .next (s.skipIf (s.reg x != s.reg y))

end Sys2Proof.Machine
end

