-- ==== Sys2Proof/Machine/Display.lean ====
section
/-! DEFINITION. The sprite blit and the meanings of CLS and DRAW (spec/44_display.md), as the loops of R212. -/

namespace Sys2Proof.Machine

/-- What the blit carries from pixel to pixel: the framebuffer and whether any set bit met a set pixel so far. -/
structure Blit where
  fb : Framebuffer
  collision : Bool
  deriving DecidableEq, Repr

/-- Sprite bit b of a row byte: the most significant bit is b = 0, the leftmost pixel (R213). PRESUMED: the spec takes this
order from general knowledge (D10); log 16; unsafe. -/
def spriteBit (row : Byte) (b : Nat) : Bool := row.getLsbD (7 - b)

/-- One sprite bit onto one pixel: collision if both are set, then XOR (R212, R214). -/
def Blit.putBit (d : Blit) (x : Fin 64) (y : Fin 32) (bit : Bool) : Blit where
  fb := d.fb.setPixel x y (d.fb.pixel x y ^^ bit)
  collision := d.collision || (bit && d.fb.pixel x y)

/-- One row: bits b = 0..7 at columns `(x0 + b) mod 64` (R211). -/
def Blit.putRow (d : Blit) (x0 : Nat) (y : Fin 32) (row : Byte) : Blit :=
  (List.range 8).foldl (fun d b => d.putBit (Fin.ofNat 64 (x0 + b)) y (spriteBit row b)) d

/-- All rows: row r at `(y0 + r) mod 32` (R211); `y` is `y0 + r` for the first of the rows left. -/
def Blit.putRows (d : Blit) (x0 y : Nat) : List Byte → Blit
  | [] => d
  | row :: rows => Blit.putRows (d.putRow x0 (Fin.ofNat 32 y) row) x0 (y + 1) rows

/-- The blit of a sprite at `(x0, y0)`; the collision flag starts at 0 (R212). -/
def Framebuffer.drawSprite (fb : Framebuffer) (x0 y0 : Nat) (rows : List Byte) : Blit :=
  Blit.putRows { fb := fb, collision := false } x0 y0 rows

/-- CLS (R210): every pixel off, dirty set even if nothing changed; VF is not written. -/
def execCls (s : State) : Host.Outcome State Fault Refusal :=
  .next { s with fb := Framebuffer.blank, dirty := true }.advance

/-- The effect of DRAW once the sprite is read: pixels, dirty unconditionally, VF := collision. -/
def State.drawRows (s : State) (x0 y0 : Byte) (rows : List Byte) : State :=
  let d := s.fb.drawSprite x0.toNat y0.toNat rows
  { s with fb := d.fb, dirty := true }.setReg vf (flagByte d.collision)

/-- DRAW VX, VY, N (R212): the origin is read before VF is written. Fatal MemoryOutOfRange before anything is drawn. -/
def execDraw (x y : RegIdx) (n : Nibble) (s : State) : Host.Outcome State Fault Refusal :=
  s.attempt ((s.memRead s.indexAddr n.toNat).map fun rows => (s.drawRows (s.reg x) (s.reg y) rows).advance)

end Sys2Proof.Machine
end

