-- ==== Sys2Proof/Machine/IndexMemory.lean ====
section
/-! DEFINITION. The meanings of LDIDX, ADDIDX, FONT, BCD, DUMP, LOAD (spec/43_index_memory.md). None but the first three
writes `I` (R196; log 27); every one has next `pc = pc0 + 2`. -/

namespace Sys2Proof.Machine

/-- LDIDX NNN (R190). -/
def execLdidx (nnn : Addr) (s : State) : Host.Outcome State Fault Refusal :=
  .next (s.setIndex (addrWord nnn)).advance

/-- ADDIDX VX (R191): modulo 65536, no flag, no range check. -/
def execAddidx (x : RegIdx) (s : State) : Host.Outcome State Fault Refusal :=
  .next (s.setIndex (s.i + byteWord (s.reg x))).advance

/-- FONT VX (R192): reads no memory. Fatal GlyphOutOfRange for a digit above 15. -/
def execFont (x : RegIdx) (s : State) : Host.Outcome State Fault Refusal :=
  s.attempt ((glyphDigit (s.reg x)).map fun d => (s.setIndex (glyphAddr d)).advance)

/-- BCD VX (R193): three digits at I, I+1, I+2. Fatal MemoryOutOfRange before any byte is written. -/
def execBcd (x : RegIdx) (s : State) : Host.Outcome State Fault Refusal :=
  s.attempt ((s.memWrite s.indexAddr (bcdDigits (s.reg x))).map State.advance)

/-- DUMP VX (R194): V[0]..V[X] at I..I+X. Fatal MemoryOutOfRange before any byte is written. -/
def execDump (x : RegIdx) (s : State) : Host.Outcome State Fault Refusal :=
  s.attempt ((s.memWrite s.indexAddr (s.regsUpTo x)).map State.advance)

/-- LOAD VX (R195): V[0]..V[X] from I..I+X. Fatal MemoryOutOfRange before any register is written. -/
def execLoad (x : RegIdx) (s : State) : Host.Outcome State Fault Refusal :=
  s.attempt ((s.memRead s.indexAddr (x.val + 1)).map fun bytes => (s.setRegs bytes).advance)

end Sys2Proof.Machine
end

