-- ==== Sys2Proof/Machine/KeysTimers.lean ====
section
/-! DEFINITION. The meanings of SKKD, SKKU, WAITK, RDDT, WRDT, WRST (spec/45_keys_timers.md). -/

namespace Sys2Proof.Machine

/-- SKKD VX (R230): skip if the key numbered by the register's value is down. Fatal KeyOutOfRange above 15. -/
def execSkkd (x : RegIdx) (s : State) : Host.Outcome State Fault Refusal :=
  s.attempt ((keyNumber (s.reg x)).map fun k => s.skipIf (s.keyIsDown k))

/-- SKKU VX (R231): skip if that key is up. Fatal as SKKD. -/
def execSkku (x : RegIdx) (s : State) : Host.Outcome State Fault Refusal :=
  s.attempt ((keyNumber (s.reg x)).map fun k => s.skipIf (!s.keyIsDown k))

/-- WAITK with the key reported in this cycle, if any: the register takes it and pc advances, or nothing changes. -/
def State.takeKey (s : State) (x : RegIdx) (k : Option Key) : State :=
  match k with
  | some k => (s.setReg x (keyByte k)).advance
  | none => s

/-- WAITK VX (R232): a cycle without a key is a completed cycle whose pc stands still. -/
def execWaitk (x : RegIdx) (s : State) : Host.Outcome State Fault Refusal :=
  .next (s.takeKey x s.input.lastKey)

/-- RDDT VX (R233): DT before this cycle's tick. -/
def execRddt (x : RegIdx) (s : State) : Host.Outcome State Fault Refusal :=
  .next (s.setReg x s.dt).advance

/-- WRDT VX (R234). -/
def execWrdt (x : RegIdx) (s : State) : Host.Outcome State Fault Refusal :=
  .next { s with dt := s.reg x }.advance

/-- WRST VX (R235). -/
def execWrst (x : RegIdx) (s : State) : Host.Outcome State Fault Refusal :=
  .next { s with st := s.reg x }.advance

end Sys2Proof.Machine
end

