-- ==== Sys2Proof/Machine/Dispatch.lean ====
section
/-! DEFINITION. Execute (spec/40_cycle_step.md R125): one arm per instruction, in the order of spec/30_encoding.md R96. -/

namespace Sys2Proof.Machine

def exec (i : Instr) (s : State) : Host.Outcome State Fault Refusal :=
  match i with
  | .cls => Sys2Proof.Machine.execCls s
  | .ret => Sys2Proof.Machine.execRet s
  | .jmp nnn => Sys2Proof.Machine.execJmp nnn s
  | .call nnn => Sys2Proof.Machine.execCall nnn s
  | .skeqi x nn => Sys2Proof.Machine.execSkeqi x nn s
  | .sknei x nn => Sys2Proof.Machine.execSknei x nn s
  | .skeqr x y => Sys2Proof.Machine.execSkeqr x y s
  | .ldi x nn => Sys2Proof.Machine.execLdi x nn s
  | .addi x nn => Sys2Proof.Machine.execAddi x nn s
  | .mov x y => Sys2Proof.Machine.execMov x y s
  | .or x y => Sys2Proof.Machine.execOr x y s
  | .and x y => Sys2Proof.Machine.execAnd x y s
  | .xor x y => Sys2Proof.Machine.execXor x y s
  | .add x y => Sys2Proof.Machine.execAdd x y s
  | .sub x y => Sys2Proof.Machine.execSub x y s
  | .shr x y => Sys2Proof.Machine.execShr x y s
  | .rsub x y => Sys2Proof.Machine.execRsub x y s
  | .shl x y => Sys2Proof.Machine.execShl x y s
  | .skner x y => Sys2Proof.Machine.execSkner x y s
  | .ldidx nnn => Sys2Proof.Machine.execLdidx nnn s
  | .jmpv0 nnn => Sys2Proof.Machine.execJmpv0 nnn s
  | .rnd x nn => Sys2Proof.Machine.execRnd x nn s
  | .draw x y n => Sys2Proof.Machine.execDraw x y n s
  | .skkd x => Sys2Proof.Machine.execSkkd x s
  | .skku x => Sys2Proof.Machine.execSkku x s
  | .rddt x => Sys2Proof.Machine.execRddt x s
  | .waitk x => Sys2Proof.Machine.execWaitk x s
  | .wrdt x => Sys2Proof.Machine.execWrdt x s
  | .wrst x => Sys2Proof.Machine.execWrst x s
  | .addidx x => Sys2Proof.Machine.execAddidx x s
  | .font x => Sys2Proof.Machine.execFont x s
  | .bcd x => Sys2Proof.Machine.execBcd x s
  | .dump x => Sys2Proof.Machine.execDump x s
  | .load x => Sys2Proof.Machine.execLoad x s

end Sys2Proof.Machine
end

