-- ==== Sys2Proof/Machine/Cycle.lean ====
section
/-! DEFINITION. The cycle (spec/40_cycle_step.md R120): everything around Execute. -/

namespace Sys2Proof.Machine

/-- Sub-steps 5 and 6 of a completed cycle: tick if asked, clear `initial` (R127; spec/10_state.md R36). The draw counter
advances, so that the next cycle's free values are fresh (log 4). -/
def State.finish (s : State) : State :=
  { s.tickIf s.input.tickTimers with initial := false, draws := s.draws + 1 }

/-- The end of a cycle that executed an instruction: sub-steps 5 and 6, unless the instruction raised a fatal, which ended the
cycle at that point (spec/60_exceptions.md R252). Either way the cycle's inputs are used up. -/
def State.endCycle (o : Host.Outcome State Fault Refusal) : Host.Outcome State Fault Refusal :=
  match o with
  | .next t => .next (if t.halted then t else t.finish).dropInput
  | .fault r => .fault r
  | .refused r => .refused r

/-- One `cycle` command. A halted core does nothing (R254). A fatal in fetch or decode ends the cycle there (R255: fetch
range, then unknown opcode, then the instruction's own). -/
def cycle (s : State) : Host.Outcome State Fault Refusal :=
  if s.halted then .next s
  else
    match s.fetch with
    | .error (cause, info) => .next (s.fatal cause info).dropInput
    | .ok op =>
      match decodeWord op with
      | .error _ => .next (s.clearDirty.fatal .unknownOpcode op.toNat).dropInput
      | .ok i => State.endCycle (exec i s.clearDirty)

/-- The state with an instruction word, big-endian, at `pc` (R68): both bytes, where `pc + 1` is an address of memory. -/
def State.placeWord (s : State) (op : Word) : State :=
  if 4095 < s.pc.toNat + 1 then s
  else { s with mem := s.mem.writeList s.pc.toNat (wordBytes op) }

end Sys2Proof.Machine
end

