-- ==== Sys2Proof/Machine/Step.lean ====
section
/-! DEFINITION. One step of the machine is one `cycle` command (spec/00_scope.md R9, spec/40_cycle_step.md R120). -/

namespace Sys2Proof.Machine

/-- One `cycle` command with the inputs the state lists first (log 4). -/
def step (s : State) : Host.Outcome State Fault Refusal := cycle s

/-- `s` with the instruction whose bits are `w`, numbered as spec/opcode_table.json numbers them, where the next cycle
fetches: at `pc`. It stands for the host's load of a ROM (spec/70_reset_and_hazards.md R286; log 21). -/
def State.withFetchWord (s : State) (nbits w : Nat) : State := s.placeWord (BitVec.ofNat 16 (w % 2 ^ nbits))

end Sys2Proof.Machine
end

