-- ==== Sys2Proof/Machine/Commands.lean ====
section
/-! DEFINITION. The host's three commands (spec/40_cycle_step.md R120, R128, R129). They never overlap (R130, a duty of the
host; log 22): each is one transition. -/

namespace Sys2Proof.Machine

/-- A command of the host. -/
inductive Command where
  /-- `cycle(tick_timers, key_down, last_key, rand_byte)` (R120). -/
  | cycle (inp : CycleInputs)
  /-- `clear_dirty()` (R128). -/
  | clearDirty
  /-- `reset(ROM)` (R129). -/
  | reset (rom : List Byte)
  deriving DecidableEq, Repr

/-- The largest ROM that fits: 4096 - 512 bytes (spec/20_memory.md R70). -/
def maxRom : Nat := 3584

/-- `reset(ROM)` (spec/70_reset_and_hazards.md R281): the cold reset. Nothing of the previous run survives (R280); only the
model's own record of the host's side, `inputs` and `draws`, goes on (log 5). A ROM longer than 3584 bytes leaves the core
halted, no ROM byte copied (R284, D23; log 21). -/
def State.resetWith (s : State) (rom : List Byte) : State :=
  let fresh := { State.reset with inputs := s.inputs, draws := s.draws }
  if maxRom < rom.length then fresh.fatal .memoryOutOfRange (0x200 + rom.length - 1)
  else { fresh with mem := fresh.mem.writeList 0x200 rom }

/-- What a command does. `cycle` presents its inputs to one step. -/
def perform (c : Command) (s : State) : Host.Outcome State Fault Refusal :=
  match c with
  | .cycle inp =>
    match step { s with inputs := inp :: s.inputs } with
    | .next t => .next { t with inputs := s.inputs }
    | .fault r => .fault r
    | .refused r => .refused r
  | .clearDirty => .next s.clearDirty
  | .reset rom => .next (s.resetWith rom)

/-- Commands one after the other, stopping where one does not answer a next state. -/
def performAll : List Command → State → Host.Outcome State Fault Refusal
  | [], s => .next s
  | c :: cs, s =>
    match perform c s with
    | .next t => performAll cs t
    | .fault r => .fault r
    | .refused r => .refused r

end Sys2Proof.Machine
end

