-- ==== Sys2Proof/Machine/Outputs.lean ====
section
/-! DEFINITION. What the host can observe between commands (spec/10_state.md R40), beside `dirty`, `dt`, `st`, `initial`,
`halted`, `faultCause` and `faultInfo`, which it reads as they stand. Reading changes no state (R35, R129). -/

namespace Sys2Proof.Machine

/-- `delay_active = (DT != 0)` (R30). -/
def State.delayActive (s : State) : Bool := s.dt != 0

/-- `sound_active = (ST != 0)` (R30). -/
def State.soundActive (s : State) : Bool := s.st != 0

/-- The projection of the display to two colours of the host's choice: a row-major buffer of 64 x 32 entries (R35). -/
def State.project {Colour : Type} (s : State) (on off : Colour) : List Colour :=
  (s.fb.toList.map fun row => row.toList.map fun p => if p then on else off).flatten

/-- The number of a cause (spec/60_exceptions.md R251; the spec's own labels, D15; log 23). -/
def Fault.code : Fault → Nat
  | .unknownOpcode => 1
  | .memoryOutOfRange => 2
  | .stackOverflow => 3
  | .stackUnderflow => 4
  | .registerOutOfRange => 5
  | .keyOutOfRange => 6
  | .glyphOutOfRange => 7

end Sys2Proof.Machine
end

