-- ==== Sys2Proof/Safety.lean ====
section
/-! DEFINITION. The terms the claims use: the invariant of the machine, what it means that a fatal was taken, that an
instruction wrote one register and nothing else, and the spec's tables about all instructions at once. -/

namespace Sys2Proof.Machine

/-- What every command keeps, from any state that meets it: memory in canonical form; the stack depth within capacity
(spec/10_state.md R28); the latch coherent, and its cause never the unreachable one (R38, spec/60_exceptions.md R251); and,
while the core runs, `pc` at most 0x10FE and every live return address in 2..4096 (R26, spec/41_control_flow.md R140). After a
fatal nothing holds of `pc` and the stack (R253). -/
structure State.Inv (s : State) : Prop where
  mem_wf : s.mem.wf
  depth_le : s.depth ≤ config.stackCapacity
  halted_latch : s.halted = true → ∃ c info, s.faultCause = some c ∧ c ≠ .registerOutOfRange ∧ s.faultInfo = some info
  running_latch : s.halted = false → s.faultCause = none ∧ s.faultInfo = none
  pc_le : s.halted = false → s.pc.toNat ≤ 0x10FE
  stack_le : s.halted = false → ∀ k, k < s.depth → 2 ≤ (s.stackAt k).toNat ∧ (s.stackAt k).toNat ≤ 4096

/-- The fatal `(cause, info)` has been taken: what R252 says of the state, and R253 lets a claim read. -/
def State.Fatal (t : State) (cause : Fault) (info : Nat) : Prop :=
  t.halted = true ∧ t.faultCause = some cause ∧ t.faultInfo = some info

/-- The instruction completes: it writes `b` to register `x`, goes on to `pc0 + 2`, and changes nothing else. -/
def WritesOnly (i : Instr) (s : State) (x : RegIdx) (b : Byte) : Prop :=
  ∃ v', exec i s = .next { s with v := v', pc := s.pc + 2 } ∧ v'[x] = b ∧ ∀ r : RegIdx, r ≠ x → v'[r] = s.v[r]

/-- The instruction completes: it writes `b` to register `x` and `f` to VF, goes on to `pc0 + 2`, and changes nothing else. -/
def WritesWithFlag (i : Instr) (s : State) (x : RegIdx) (b f : Byte) : Prop :=
  ∃ v', exec i s = .next { s with v := v', pc := s.pc + 2 } ∧ v'[x] = b ∧ v'[vf] = f ∧
    ∀ r : RegIdx, r ≠ x → r ≠ vf → v'[r] = s.v[r]

/-- The five flag producers with a destination X (spec/10_state.md R22, spec/42_alu.md R176), as instructions with that X. -/
def flagProducers (x y : RegIdx) : List Instr := [.add x y, .sub x y, .shr x y, .rsub x y, .shl x y]

/-- Which registers an instruction may write (spec/10_state.md R21, R22). -/
def writesReg (i : Instr) (r : RegIdx) : Bool :=
  match i with
  | .ldi x _ | .addi x _ | .mov x _ | .or x _ | .and x _ | .xor x _ | .rnd x _ | .rddt x | .waitk x => r == x
  | .add x _ | .sub x _ | .shr x _ | .rsub x _ | .shl x _ => r == x || r == vf
  | .draw _ _ _ => r == vf
  | .load x => r.val ≤ x.val
  | .cls | .ret | .jmp _ | .call _ | .skeqi _ _ | .sknei _ _ | .skeqr _ _ | .skner _ _ | .ldidx _ | .jmpv0 _ | .skkd _
  | .skku _ | .wrdt _ | .wrst _ | .addidx _ | .font _ | .bcd _ | .dump _ => false

/-- The next-pc table of spec/40_cycle_step.md R126, with `s.pc` as `pc0`, on unreduced numbers. -/
def nextPc (i : Instr) (s : State) : Nat :=
  match i with
  | .jmp nnn | .call nnn => nnn.toNat
  | .ret => (s.stackAt (s.depth - 1)).toNat
  | .jmpv0 nnn => nnn.toNat + (s.reg 0).toNat
  | .skeqi x nn => if s.reg x = nn then s.pc.toNat + 4 else s.pc.toNat + 2
  | .sknei x nn => if s.reg x ≠ nn then s.pc.toNat + 4 else s.pc.toNat + 2
  | .skeqr x y => if s.reg x = s.reg y then s.pc.toNat + 4 else s.pc.toNat + 2
  | .skner x y => if s.reg x ≠ s.reg y then s.pc.toNat + 4 else s.pc.toNat + 2
  | .skkd x => if s.input.keyDown.getLsbD (s.reg x).toNat = true then s.pc.toNat + 4 else s.pc.toNat + 2
  | .skku x => if s.input.keyDown.getLsbD (s.reg x).toNat = false then s.pc.toNat + 4 else s.pc.toNat + 2
  | .waitk _ => if s.input.lastKey = none then s.pc.toNat else s.pc.toNat + 2
  | .cls | .ldi _ _ | .addi _ _ | .mov _ _ | .or _ _ | .and _ _ | .xor _ _ | .add _ _ | .sub _ _ | .shr _ _ | .rsub _ _
  | .shl _ _ | .ldidx _ | .rnd _ _ | .draw _ _ _ | .rddt _ | .wrdt _ | .wrst _ | .addidx _ | .font _ | .bcd _ | .dump _
  | .load _ => s.pc.toNat + 2

/-- The instruction's own fatal, if it may raise one: the cause and the info (spec/60_exceptions.md R251, R255). -/
def ownFatal (i : Instr) (s : State) : Option (Fault × Nat) :=
  match i with
  | .call _ => if s.depth < config.stackCapacity then none else some (.stackOverflow, (s.pc + 2).toNat)
  | .ret => if s.depth = 0 then some (.stackUnderflow, 0) else none
  | .skkd x | .skku x => if 15 < (s.reg x).toNat then some (.keyOutOfRange, (s.reg x).toNat) else none
  | .font x => if 15 < (s.reg x).toNat then some (.glyphOutOfRange, (s.reg x).toNat) else none
  | .bcd _ => if 4095 < s.i.toNat + 2 then some (.memoryOutOfRange, s.i.toNat + 2) else none
  | .dump x | .load x => if 4095 < s.i.toNat + x.val then some (.memoryOutOfRange, s.i.toNat + x.val) else none
  | .draw _ _ n =>
    if n.toNat = 0 then if 4095 < s.i.toNat then some (.memoryOutOfRange, s.i.toNat) else none
    else if 4095 < s.i.toNat + n.toNat - 1 then some (.memoryOutOfRange, s.i.toNat + n.toNat - 1) else none
  | .cls | .jmp _ | .skeqi _ _ | .sknei _ _ | .skeqr _ _ | .ldi _ _ | .addi _ _ | .mov _ _ | .or _ _ | .and _ _ | .xor _ _
  | .add _ _ | .sub _ _ | .shr _ _ | .rsub _ _ | .shl _ _ | .skner _ _ | .ldidx _ | .jmpv0 _ | .rnd _ _ | .rddt _ | .waitk _
  | .wrdt _ | .wrst _ | .addidx _ => none

/-- The words that are no instruction, as spec/30_encoding.md R95 lists them. -/
def IllegalWord (op : Word) : Prop :=
  let t := op.toNat / 4096
  let n := op.toNat % 16
  let nn := op.toNat % 256
  (t = 0x0 ∧ op.toNat ≠ 0x00E0 ∧ op.toNat ≠ 0x00EE) ∨
  (t = 0x5 ∧ n ≠ 0) ∨
  (t = 0x8 ∧ n ∈ [0x8, 0x9, 0xA, 0xB, 0xC, 0xD, 0xF]) ∨
  (t = 0x9 ∧ n ≠ 0) ∨
  (t = 0xE ∧ nn ∉ [0x9E, 0xA1]) ∨
  (t = 0xF ∧ nn ∉ [0x07, 0x0A, 0x15, 0x18, 0x1E, 0x29, 0x33, 0x55, 0x65])

/-- The sprite of `n` rows at memory `base`, drawn at `(x0, y0)`, has a set bit on the pixel `(cx, cy)`
(spec/44_display.md R211, R213). -/
def SpriteCovers (m : Memory) (base n x0 y0 : Nat) (cx : Fin 64) (cy : Fin 32) : Prop :=
  ∃ r b, r < n ∧ b < 8 ∧ cx.val = (x0 + b) % 64 ∧ cy.val = (y0 + r) % 32 ∧ (m.read (base + r)).getLsbD (7 - b) = true

/-- The address range of DRAW's sprite lies in memory, and for no rows its base does (spec/20_memory.md R63). -/
def SpriteInRange (base n : Nat) : Prop := base ≤ 4095 ∧ base + n ≤ 4096

/-- An instruction read at `pc` by a core that runs: what the cycle's sub-steps 1 and 3 give (spec/40_cycle_step.md R120). -/
def State.Fetches (s : State) (i : Instr) : Prop :=
  s.halted = false ∧ s.pc.toNat ≤ 4094 ∧
    decode [s.mem.read s.pc.toNat, s.mem.read (s.pc.toNat + 1)] = .ok (i, [])

/-- The two bytes at `pc`, as one big-endian number (R68). -/
def State.opAt (s : State) : Nat := (s.mem.read s.pc.toNat).toNat * 256 + (s.mem.read (s.pc.toNat + 1)).toNat

end Sys2Proof.Machine
end

