-- ==== Sys2Proof/Certificates/Slice0/Obligations.lean ====
section
/-! DEFINITION. The statements for the provers, from the spec's numbered rules. Each docstring says which rule or section it
formalises. A statement about an instruction gives the whole state it leaves, as `exec i s = .next { s with ... }`: what is
not named there is unchanged, so the equation is the instruction's frame too. -/

open Sys2Proof Sys2Proof.Machine

/-! ### Encoding (spec/30_encoding.md) -/

/-- Words of spec/95_test_vectors.md section 2.1 decode as that table says (the opcode map is the spec's own, D4; log 9). -/
def Obligations.SpecWordsDecodeAsListed : Prop :=
  decodeWord 0x6A07 = .ok (.ldi 10 0x07) ∧ decodeWord 0xA2F0 = .ok (.ldidx 0x2F0) ∧
  decodeWord 0xD125 = .ok (.draw 1 2 5) ∧ decodeWord 0x8ABE = .ok (.shl 10 11) ∧
  decodeWord 0x2FFF = .ok (.call 0xFFF) ∧ decodeWord 0xF565 = .ok (.load 5) ∧ decodeWord 0x00E0 = .ok .cls ∧
  decodeWord 0x076A = .error (.unknownOpcode 0x076A) ∧ decodeWord 0x5011 = .error (.unknownOpcode 0x5011) ∧
  decodeWord 0x8018 = .error (.unknownOpcode 0x8018) ∧ decodeWord 0xE09F = .error (.unknownOpcode 0xE09F) ∧
  decodeWord 0xF01F = .error (.unknownOpcode 0xF01F)

/-- Decoding the two bytes of any instruction gives it back, with every operand at every value, and the bytes after it
(spec/30_encoding.md sections 2 to 4; D4, log 9). -/
def Obligations.DecodeInvertsEncode : Prop :=
  ∀ (i : Instr) (rest : List Byte), decode (encodeBytes i ++ rest) = .ok (i, rest)

/-- Every word that decodes is the encoding of what it decodes to: no bit of a word is dropped, and no two words are one
instruction (spec/30_encoding.md sections 2 to 4; D4, log 9). -/
def Obligations.EncodeInvertsDecode : Prop :=
  ∀ (op : Word) (i : Instr), decodeWord op = .ok i → encode i = op

/-- The procedure of R94 and the table of R96 agree: a word matches the row of an instruction under its mask exactly if it
decodes to an instruction of that row (spec/30_encoding.md sections 3, 4, 6; D4, D5; logs 9, 10). -/
def Obligations.RowMatchesExactlyWhenDecoded : Prop :=
  ∀ (op : Word) (i : Instr),
    (op &&& i.mask).toNat = i.matchBits ↔
      ∃ j, decodeWord op = .ok j ∧ j.matchBits = i.matchBits ∧ j.mask = i.mask

/-- The words that decode to no instruction are exactly those R95 lists, and each is refused by its own value
(spec/30_encoding.md section 5; strict nibbles are the spec's decision D5, log 10). -/
def Obligations.UnknownWordsAreExactlyListed : Prop :=
  ∀ op : Word, (IllegalWord op ↔ decodeWord op = .error (.unknownOpcode op)) ∧
    (IllegalWord op ↔ ¬ ∃ i, decodeWord op = .ok i)

/-! ### The cycle (spec/40_cycle_step.md) -/

/-- A step of a running core is Execute of the instruction decoded from the two bytes at `pc`, on the state with `dirty`
cleared; around it, unless the instruction raised a fatal, both timers are ticked if the cycle asks, `initial` is cleared,
and the model's own bookkeeping goes on (draw counter, inputs used up; log 4). (R120) -/
def Obligations.StepRunsDecodedInstruction : Prop :=
  ∀ (s t : State) (i : Instr), s.Fetches i → exec i { s with dirty := false } = .next t →
    step s = .next
      (if t.halted = true then { t with inputs := t.inputs.tail }
       else { t with
          dt := if t.input.tickTimers = true then tick t.dt else t.dt
          st := if t.input.tickTimers = true then tick t.st else t.st
          initial := false, draws := t.draws + 1, inputs := t.inputs.tail })

/-- Fetch reads two bytes at `pc`, the first the high one, and faults with MemoryOutOfRange and the address `pc + 1` when
`pc` is 4095 or more (R66, R68). -/
def Obligations.FetchIsBigEndianAndRangeChecked : Prop :=
  ∀ s : State,
    (s.pc.toNat + 1 ≤ 4095 → s.fetch = .ok (BitVec.ofNat 16 s.opAt)) ∧
    (4095 ≤ s.pc.toNat → s.fetch = .error (.memoryOutOfRange, s.pc.toNat + 1))

/-- A running core takes the fatal of the first sub-step that raises one: MemoryOutOfRange with `pc + 1` if it cannot fetch,
else UnknownOpcode with the word if the word is no instruction (spec/60_exceptions.md section 3; that a fatal is a next state
is the model's reading, log 1). -/
def Obligations.FetchAndDecodeFaultsAreFatal : Prop :=
  ∀ s : State, s.halted = false →
    (4095 ≤ s.pc.toNat → ∃ t, step s = .next t ∧ t.Fatal .memoryOutOfRange (s.pc.toNat + 1)) ∧
    (s.pc.toNat ≤ 4094 → ∀ e, decodeWord (BitVec.ofNat 16 s.opAt) = .error e →
      ∃ t, step s = .next t ∧ t.Fatal .unknownOpcode s.opAt)

/-- The next program counter of every instruction that completes, at an address from which an instruction can be fetched:
the table of spec/40_cycle_step.md section 3; CALL has pushed `pc0 + 2`. That JMPV0 is not reduced is the spec's decision D26
(log 20). -/
def Obligations.NextPcFollowsTable : Prop :=
  ∀ (i : Instr) (s t : State), s.pc.toNat ≤ 4094 → exec i s = .next t → t.halted = false →
    t.pc.toNat = nextPc i s ∧ ∀ nnn, i = .call nnn → (t.stackAt s.depth).toNat = s.pc.toNat + 2

/-- The tick comes after Execute: in a completed cycle both timers are what Execute left, less one if asked and not already
zero, and nothing else that Execute left changes but `initial`, which is cleared (spec/40_cycle_step.md section 3,
spec/10_state.md section 5; the model's own `draws` and `inputs` go on, log 4). -/
def Obligations.TimersTickAfterExecute : Prop :=
  ∀ (s u : State) (i : Instr), s.Fetches i → exec i s.clearDirty = .next u → u.halted = false →
    ∃ t, step s = .next t ∧
      t.dt.toNat = (if s.input.tickTimers = true then u.dt.toNat - 1 else u.dt.toNat) ∧
      t.st.toNat = (if s.input.tickTimers = true then u.st.toNat - 1 else u.st.toNat) ∧
      t.initial = false ∧
      { t with dt := u.dt, st := u.st, initial := u.initial, inputs := u.inputs, draws := u.draws } = u

/-- After a completed cycle `dirty` is 1 exactly if the cycle executed CLS or DRAW (spec/10_state.md section 6, where the spec
marks it as its own derivation). -/
def Obligations.DirtyExactlyAfterClsOrDraw : Prop :=
  ∀ (s t : State) (i : Instr), s.Fetches i → step s = .next t → t.halted = false →
    (t.dirty = true ↔ i = .cls ∨ ∃ x y n, i = .draw x y n)

/-- A cycle has one of three outcomes (spec/00_scope.md section 7): a halted core does nothing; a running core completes and
runs on; or it takes a fatal of the closed list, never the unreachable one. There is no fourth: a step always answers a next
state. That a fatal is a next state is the model's reading (log 1). -/
def Obligations.CycleHasThreeOutcomes : Prop :=
  ∀ s : State, ∃ t, step s = .next t ∧
    ((s.halted = true ∧ t = s) ∨
     (s.halted = false ∧ t.halted = false ∧ t.faultCause = s.faultCause ∧ t.faultInfo = s.faultInfo) ∨
     (s.halted = false ∧ ∃ cause info, t.Fatal cause info ∧ cause ≠ .registerOutOfRange))

/-- A halted core ignores `cycle`, whatever its inputs, and accepts `clear_dirty`, which changes only `dirty`
(spec/60_exceptions.md section 2; the latch is the spec's decision D14, log 1). -/
def Obligations.HaltedCoreIgnoresCycle : Prop :=
  ∀ (s : State) (inp : CycleInputs), s.halted = true →
    step s = .next s ∧ perform (.cycle inp) s = .next s ∧ perform .clearDirty s = .next { s with dirty := false }

/-- No sequence of commands other than reset clears a fault latch or changes what it recorded (spec/60_exceptions.md
section 2; D14, log 1). -/
def Obligations.LatchStaysUntilReset : Prop :=
  ∀ (cs : List Command) (s t : State), s.halted = true → (∀ c ∈ cs, ∀ rom, c ≠ .reset rom) →
    performAll cs s = .next t → t.halted = true ∧ t.faultCause = s.faultCause ∧ t.faultInfo = s.faultInfo

/-- Which fatal an instruction takes: its own (`ownFatal`), and no other; without one the latch stays as it is
(spec/60_exceptions.md sections 1 and 3; causes 6 and 7 and the zero-length read are the spec's decisions D12, D13, D17;
logs 13, 14, 15). -/
def Obligations.InstructionsTakeOnlyTheirOwnFatal : Prop :=
  ∀ (i : Instr) (s : State), ∃ t, exec i s = .next t ∧
    (∀ cause info, ownFatal i s = some (cause, info) → t.Fatal cause info) ∧
    (ownFatal i s = none → t.halted = s.halted ∧ t.faultCause = s.faultCause ∧ t.faultInfo = s.faultInfo)

/-! ### Invariants -/

/-- The state after reset with an empty ROM meets the invariant (spec/70_reset_and_hazards.md section 1). -/
def Obligations.ResetMeetsInvariant : Prop := State.reset.Inv

/-- Every step keeps the invariant: memory canonical, depth within capacity, latch coherent, and while running `pc` at most
0x10FE and return addresses in 2..4096 (spec/10_state.md sections 2, 4, 9, where the spec derives the bound on `pc`). -/
def Obligations.StepKeepsInvariant : Prop :=
  ∀ s t : State, s.Inv → step s = .next t → t.Inv

/-- Every command of the host (a cycle with any inputs, `clear_dirty`, a reset with any ROM) keeps the invariant, from any state
that meets it; so every sequence of commands from reset leads only to states that meet it (spec/10_state.md sections 2, 4, 8, 9;
spec/40_cycle_step.md section 4). -/
def Obligations.EveryReachableStateMeetsInvariant : Prop :=
  (∀ (c : Command) (s t : State), s.Inv → perform c s = .next t → t.Inv) ∧
  ∀ (cs : List Command) (t : State), performAll cs State.reset = .next t → t.Inv

/-! ### What an instruction may change and read -/

/-- An instruction that completes changes no register but those R21 and R22 let it write (spec/10_state.md section 1). -/
def Obligations.OnlyNamedRegistersChange : Prop :=
  ∀ (i : Instr) (s t : State) (r : RegIdx), exec i s = .next t → t.halted = false → writesReg i r = false →
    t.reg r = s.reg r

/-- Every byte of memory is unchanged by an instruction that completes, unless it is BCD or DUMP; `I` is unchanged unless it
is LDIDX, ADDIDX or FONT (spec/20_memory.md section 1; spec/10_state.md section 3; spec/43_index_memory.md section 2). -/
def Obligations.MemoryAndIndexHaveTheirWriters : Prop :=
  ∀ (i : Instr) (s t : State), exec i s = .next t → t.halted = false →
    ((∀ x, i ≠ .bcd x ∧ i ≠ .dump x) → ∀ a, t.mem.read a = s.mem.read a) ∧
    ((∀ x nnn, i ≠ .ldidx nnn ∧ i ≠ .addidx x ∧ i ≠ .font x) → t.i = s.i)

/-- The stack is touched only by CALL and RET, the framebuffer only by CLS and DRAW, DT only by WRDT and ST only by WRST; no
instruction touches `initial` or the host's side of the model (spec/10_state.md sections 4 to 7). -/
def Obligations.StackDisplayTimersHaveTheirWriters : Prop :=
  ∀ (i : Instr) (s t : State), exec i s = .next t → t.halted = false →
    ((∀ nnn, i ≠ .ret ∧ i ≠ .call nnn) → t.stack = s.stack ∧ t.depth = s.depth) ∧
    ((∀ x y n, i ≠ .cls ∧ i ≠ .draw x y n) → t.fb = s.fb ∧ t.dirty = s.dirty) ∧
    ((∀ x, i ≠ .wrdt x) → t.dt = s.dt) ∧ ((∀ x, i ≠ .wrst x) → t.st = s.st) ∧
    t.initial = s.initial ∧ t.inputs = s.inputs ∧ t.draws = s.draws

/-- The cycle's inputs reach only SKKD, SKKU, WAITK and RND: any other instruction does the same whatever the host presents
(spec/40_cycle_step.md section 2, the column "Read by"). -/
def Obligations.InputsReachOnlyTheirReaders : Prop :=
  ∀ (i : Instr) (s t : State) (inps : List CycleInputs),
    (∀ x nn, i ≠ .skkd x ∧ i ≠ .skku x ∧ i ≠ .waitk x ∧ i ≠ .rnd x nn) →
    exec i s = .next t → exec i { s with inputs := inps } = .next { t with inputs := inps }

/-- No instruction reads ST, `initial` or `dirty`: two states that differ only there end up, where the instruction does not
write them, differing only there (spec/10_state.md sections 5 to 7). -/
def Obligations.SoundTimerAndHostBitsAreNeverRead : Prop :=
  ∀ (i : Instr) (s t u : State) (b : Byte) (d n : Bool),
    exec i s = .next t → exec i { s with st := b, dirty := d, initial := n } = .next u →
    { u with st := 0, dirty := false, initial := false } = { t with st := 0, dirty := false, initial := false }

/-! ### Control flow (spec/41_control_flow.md) -/

/-- JMP sets `pc` to the address and changes nothing else (R141). -/
def Obligations.JumpSetsPc : Prop :=
  ∀ (nnn : Addr) (s : State), exec (.jmp nnn) s = .next { s with pc := BitVec.ofNat 16 nnn.toNat }

/-- JMPV0 sets `pc` to the sum of the address and V0, not reduced to 12 bits (spec/41_control_flow.md section 1; the spec's
decision D26, log 20). -/
def Obligations.JumpWithOffsetIsNotReduced : Prop :=
  ∀ (nnn : Addr) (s : State), ∃ target : Word,
    exec (.jmpv0 nnn) s = .next { s with pc := target } ∧ target.toNat = nnn.toNat + (s.reg 0).toNat

/-- A JMP to its own address changes nothing in a cycle but `dirty`, `initial` and the ticked timers
(spec/70_reset_and_hazards.md section 3; the model's own `inputs` and `draws` go on, log 4). -/
def Obligations.SelfJumpOnlyTicks : Prop :=
  ∀ (s : State) (nnn : Addr), s.Fetches (.jmp nnn) → s.pc.toNat = nnn.toNat →
    step s = .next { s with
      dirty := false, initial := false, inputs := s.inputs.tail, draws := s.draws + 1
      dt := if s.input.tickTimers = true then tick s.dt else s.dt
      st := if s.input.tickTimers = true then tick s.st else s.st }

/-- CALL with room on the stack pushes `pc0 + 2` and jumps; every other stack entry stays (spec/41_control_flow.md section 1,
spec/10_state.md section 4). On a full stack it takes the fatal StackOverflow with that address (the capacity 16 is the spec's
decision D1, log 6; the fatal as a next state, log 1). -/
def Obligations.CallPushesOrOverflows : Prop :=
  ∀ (nnn : Addr) (s : State),
    (s.depth < config.stackCapacity → ∃ stack',
      exec (.call nnn) s = .next { s with
        stack := stack', depth := s.depth + 1, pc := BitVec.ofNat 16 nnn.toNat } ∧
      stack'[s.depth]? = some (s.pc + 2) ∧ ∀ k, k ≠ s.depth → stack'[k]? = s.stack[k]?) ∧
    (s.depth = config.stackCapacity → ∃ t, exec (.call nnn) s = .next t ∧ t.Fatal .stackOverflow (s.pc + 2).toNat)

/-- RET with an entry on the stack jumps to exactly the popped value; on an empty stack it takes the fatal StackUnderflow
(spec/41_control_flow.md section 1, spec/10_state.md section 4; log 1). The premise `depth <= STACK_CAPACITY` is part of the
invariant. -/
def Obligations.RetPopsOrUnderflows : Prop :=
  ∀ s : State,
    (0 < s.depth → s.depth ≤ config.stackCapacity → ∃ a, s.stack[s.depth - 1]? = some a ∧
      exec .ret s = .next { s with pc := a, depth := s.depth - 1 }) ∧
    (s.depth = 0 → ∃ t, exec .ret s = .next t ∧ t.Fatal .stackUnderflow 0)

/-- A CALL and, with the stack as CALL left it, a RET from anywhere come back to `pc0 + 2` with the depth and every live entry
as before the CALL (spec/41_control_flow.md, opening text on the one call and return convention). -/
def Obligations.RetComesBackFromCall : Prop :=
  ∀ (nnn : Addr) (s t u w : State), s.depth < config.stackCapacity → exec (.call nnn) s = .next t →
    u.stack = t.stack → u.depth = t.depth → exec .ret u = .next w →
    w.pc = s.pc + 2 ∧ w.depth = s.depth ∧ ∀ k, k < s.depth → w.stackAt k = s.stackAt k

/-- The four register skips go to `pc0 + 4` if their condition holds and to `pc0 + 2` otherwise, and change nothing else
(R144, R145, R146, R147). -/
def Obligations.SkipsCompareEquality : Prop :=
  ∀ (x y : RegIdx) (nn : Byte) (s : State),
    exec (.skeqi x nn) s = .next { s with pc := if s.reg x = nn then s.pc + 4 else s.pc + 2 } ∧
    exec (.sknei x nn) s = .next { s with pc := if s.reg x ≠ nn then s.pc + 4 else s.pc + 2 } ∧
    exec (.skeqr x y) s = .next { s with pc := if s.reg x = s.reg y then s.pc + 4 else s.pc + 2 } ∧
    exec (.skner x y) s = .next { s with pc := if s.reg x ≠ s.reg y then s.pc + 4 else s.pc + 2 }

/-! ### Arithmetic and logic (spec/42_alu.md) -/

/-- LDI: the register is the immediate (R160). -/
def Obligations.LoadImmediateSetsRegister : Prop :=
  ∀ (x : RegIdx) (nn : Byte) (s : State), WritesOnly (.ldi x nn) s x nn

/-- ADDI: the sum modulo 256, no flag, no fault (R161). -/
def Obligations.AddImmediateWrapsWithoutFlag : Prop :=
  ∀ (x : RegIdx) (nn : Byte) (s : State),
    WritesOnly (.addi x nn) s x (BitVec.ofNat 8 (((s.reg x).toNat + nn.toNat) % 256))

/-- MOV, OR, AND, XOR: the bitwise result in VX, VF not written (R162, R163, R164, R165). -/
def Obligations.MoveAndLogicLeaveFlag : Prop :=
  ∀ (x y : RegIdx) (s : State),
    WritesOnly (.mov x y) s x (s.reg y) ∧
    WritesOnly (.or x y) s x (BitVec.ofNat 8 ((s.reg x).toNat ||| (s.reg y).toNat)) ∧
    WritesOnly (.and x y) s x (BitVec.ofNat 8 ((s.reg x).toNat &&& (s.reg y).toNat)) ∧
    WritesOnly (.xor x y) s x (BitVec.ofNat 8 ((s.reg x).toNat ^^^ (s.reg y).toNat))

/-- ADD with X other than 15: the sum modulo 256, VF 1 exactly if the sum exceeds 255 (spec/42_alu.md section 3). For Y = 15
the old VF is the operand: reads come before writes, the spec's decision D8 (log 19). -/
def Obligations.AddSetsCarry : Prop :=
  ∀ (x y : RegIdx) (s : State), x ≠ vf →
    WritesWithFlag (.add x y) s x (BitVec.ofNat 8 (((s.reg x).toNat + (s.reg y).toNat) % 256))
      (if (s.reg x).toNat + (s.reg y).toNat > 255 then 1 else 0)

/-- SUB and RSUB with X other than 15: the difference modulo 256, VF 1 exactly if the minuend is greater, strictly, so 0 on
equal operands (spec/42_alu.md section 3; spec/90_conflicts.md C1). For Y = 15 the old VF is the operand: reads come before
writes, the spec's decision D8 (log 19). -/
def Obligations.SubtractSetsStrictFlag : Prop :=
  ∀ (x y : RegIdx) (s : State), x ≠ vf →
    WritesWithFlag (.sub x y) s x (BitVec.ofNat 8 (((s.reg x).toNat + 256 - (s.reg y).toNat) % 256))
      (if (s.reg x).toNat > (s.reg y).toNat then 1 else 0) ∧
    WritesWithFlag (.rsub x y) s x (BitVec.ofNat 8 (((s.reg y).toNat + 256 - (s.reg x).toNat) % 256))
      (if (s.reg y).toNat > (s.reg x).toNat then 1 else 0)

/-- SHR and SHL with X other than 15 shift VX by one place and put the bit shifted out into VF, whatever Y
(R168, R171, R173). -/
def Obligations.ShiftsMoveOneBitIntoFlag : Prop :=
  ∀ (x y : RegIdx) (s : State), x ≠ vf →
    WritesWithFlag (.shr x y) s x (BitVec.ofNat 8 ((s.reg x).toNat / 2)) (BitVec.ofNat 8 ((s.reg x).toNat % 2)) ∧
    WritesWithFlag (.shl x y) s x (BitVec.ofNat 8 ((s.reg x).toNat * 2 % 256)) (BitVec.ofNat 8 ((s.reg x).toNat / 128))

/-- With X = 15 the five flag producers complete and change nothing but `pc` and VF, of whose value nothing is said
(spec/42_alu.md section 5; the spec's decision D9, log 3). -/
def Obligations.FlagProducersRunOnRegister15 : Prop :=
  ∀ (y : RegIdx) (s : State) (i : Instr), i ∈ flagProducers vf y →
    ∃ v', exec i s = .next { s with v := v', pc := s.pc + 2 } ∧ ∀ r : RegIdx, r ≠ vf → v'[r] = s.v[r]

/-- RND: the cycle's random byte, whatever it is, masked by the immediate; no bit outside the mask is set (R174). -/
def Obligations.RandomByteIsMasked : Prop :=
  ∀ (x : RegIdx) (nn : Byte) (s : State),
    WritesOnly (.rnd x nn) s x (s.input.randByte &&& nn) ∧ (s.input.randByte &&& nn) &&& ~~~nn = 0

/-! ### Index register and memory (spec/43_index_memory.md) -/

/-- LDIDX sets `I` to the address (R190). -/
def Obligations.SetIndexLoadsAddress : Prop :=
  ∀ (nnn : Addr) (s : State), ∃ a : Word,
    exec (.ldidx nnn) s = .next { s with i := a, pc := s.pc + 2 } ∧ a.toNat = nnn.toNat

/-- ADDIDX adds VX to `I` modulo 65536, without flag or range check (R191). -/
def Obligations.AddToIndexWrapsAt65536 : Prop :=
  ∀ (x : RegIdx) (s : State), ∃ a : Word,
    exec (.addidx x) s = .next { s with i := a, pc := s.pc + 2 } ∧ a.toNat = (s.i.toNat + (s.reg x).toNat) % 65536

/-- FONT sets `I` to the address of the digit's glyph for digits 0 to 15, and takes the fatal GlyphOutOfRange above
(spec/43_index_memory.md section 1; the fatal is the spec's decision D13, logs 14, 1; FONT_BASE is a parameter, log 7). -/
def Obligations.FontPointsAtGlyphOrFaults : Prop :=
  ∀ (x : RegIdx) (s : State),
    ((s.reg x).toNat ≤ 15 → ∃ a : Word, exec (.font x) s = .next { s with i := a, pc := s.pc + 2 } ∧
      a.toNat = config.fontBase + 5 * (s.reg x).toNat) ∧
    (15 < (s.reg x).toNat → ∃ t, exec (.font x) s = .next t ∧ t.Fatal .glyphOutOfRange (s.reg x).toNat)

/-- BCD stores hundreds, tens and ones of VX at I, I+1, I+2, every other byte and everything else as before; if I + 2 is
above 4095 it takes the fatal MemoryOutOfRange with that address (spec/43_index_memory.md section 2; `I` unchanged is the
spec's derivation, log 27; the fatal as a next state, log 1). Canonical memory is part of the invariant. -/
def Obligations.BcdStoresThreeDigits : Prop :=
  ∀ (x : RegIdx) (s : State), s.mem.wf →
    (s.i.toNat + 2 ≤ 4095 → ∃ mem', exec (.bcd x) s = .next { s with mem := mem', pc := s.pc + 2 } ∧
      (mem'.read s.i.toNat).toNat = (s.reg x).toNat / 100 ∧
      (mem'.read (s.i.toNat + 1)).toNat = (s.reg x).toNat / 10 % 10 ∧
      (mem'.read (s.i.toNat + 2)).toNat = (s.reg x).toNat % 10 ∧
      ∀ a, (a < s.i.toNat ∨ s.i.toNat + 2 < a) → mem'.read a = s.mem.read a) ∧
    (4095 < s.i.toNat + 2 → ∃ t, exec (.bcd x) s = .next t ∧ t.Fatal .memoryOutOfRange (s.i.toNat + 2))

/-- DUMP stores V0..VX at I..I+X, every other byte and everything else as before; if I + X is above 4095 it takes the fatal
MemoryOutOfRange with that address (spec/43_index_memory.md section 2; logs 27, 1). Canonical memory is part of the
invariant. -/
def Obligations.DumpStoresRegisters : Prop :=
  ∀ (x : RegIdx) (s : State), s.mem.wf →
    (s.i.toNat + x.val ≤ 4095 → ∃ mem', exec (.dump x) s = .next { s with mem := mem', pc := s.pc + 2 } ∧
      (∀ k : RegIdx, k ≤ x → mem'.read (s.i.toNat + k.val) = s.reg k) ∧
      ∀ a, (a < s.i.toNat ∨ s.i.toNat + x.val < a) → mem'.read a = s.mem.read a) ∧
    (4095 < s.i.toNat + x.val → ∃ t, exec (.dump x) s = .next t ∧ t.Fatal .memoryOutOfRange (s.i.toNat + x.val))

/-- LOAD sets V0..VX to the bytes at I..I+X, the registers above X and everything else as before; if I + X is above 4095 it
takes the fatal MemoryOutOfRange with that address (spec/43_index_memory.md section 2; logs 27, 1). -/
def Obligations.LoadReadsRegisters : Prop :=
  ∀ (x : RegIdx) (s : State),
    (s.i.toNat + x.val ≤ 4095 → ∃ v', exec (.load x) s = .next { s with v := v', pc := s.pc + 2 } ∧
      ∀ k : RegIdx, v'[k] = if k ≤ x then s.mem.read (s.i.toNat + k.val) else s.v[k]) ∧
    (4095 < s.i.toNat + x.val → ∃ t, exec (.load x) s = .next t ∧ t.Fatal .memoryOutOfRange (s.i.toNat + x.val))

/-- A DUMP and, with `I` and memory as they then are, a LOAD of the same X bring V0..VX back, whatever the registers held in
between (spec/43_index_memory.md section 2). -/
def Obligations.LoadBringsBackDump : Prop :=
  ∀ (x : RegIdx) (s t u w : State), s.mem.wf → s.i.toNat + x.val ≤ 4095 → exec (.dump x) s = .next t →
    u.mem = t.mem → u.i = t.i → exec (.load x) u = .next w → ∀ k : RegIdx, k ≤ x → w.reg k = s.reg k

/-- Stores are seen by the next fetch. When a cycle's DUMP stores registers K and K+1 where the next instruction is fetched, the
core is not halted, fetches exactly those two bytes, and, if they decode to an instruction, runs it in the next step in the
sense of StepRunsDecodedInstruction. When a cycle's BCD stores the hundreds and tens there, the core fetches them, and the next
step takes the fatal UnknownOpcode with that word, since no two digits are an instruction (spec/20_memory.md section 6, where the
spec derives it; strict decoding, log 10; the fatal as a next state, log 1). -/
def Obligations.PlantedWordIsFetchedNext : Prop :=
  (∀ (x k : RegIdx) (s t : State), s.mem.wf → s.Fetches (.dump x) → k.val + 1 ≤ x.val →
    s.i.toNat + k.val = s.pc.toNat + 2 → s.i.toNat + x.val ≤ 4095 → step s = .next t →
    t.halted = false ∧ t.fetch = .ok (BitVec.ofNat 16 ((s.reg k).toNat * 256 + (s.reg (k + 1)).toNat)) ∧
    ∀ i, decode [s.reg k, s.reg (k + 1)] = .ok (i, []) → t.Fetches i) ∧
  ∀ (x : RegIdx) (s t : State), s.mem.wf → s.Fetches (.bcd x) → s.i.toNat = s.pc.toNat + 2 → s.i.toNat + 2 ≤ 4095 →
    step s = .next t →
    t.halted = false ∧ t.fetch = .ok (BitVec.ofNat 16 ((s.reg x).toNat / 100 * 256 + (s.reg x).toNat / 10 % 10)) ∧
    ∃ u, step t = .next u ∧ u.Fatal .unknownOpcode ((s.reg x).toNat / 100 * 256 + (s.reg x).toNat / 10 % 10)

/-! ### Display (spec/44_display.md) -/

/-- CLS turns every pixel off and sets `dirty`, even on a blank display (R210). -/
def Obligations.ClearScreenBlanksDisplay : Prop :=
  ∀ s : State, ∃ fb', exec .cls s = .next { s with fb := fb', dirty := true, pc := s.pc + 2 } ∧
    ∀ x y, Framebuffer.pixel fb' x y = false

/-- DRAW, with the sprite inside memory: every pixel is its old value XOR the sprite's bit there, wrapped on both axes; VF is 1
exactly if a set bit met a set pixel; `dirty` is set; nothing else changes (spec/44_display.md section 2; bit order, collision
value and zero rows are the spec's decisions D10, D11, D17, logs 16, 17, 15). With X or Y = 15 the old VF is the coordinate: reads
come before writes, the spec's decision D8 (log 19); that `I` is kept is the spec's derivation (log 27). -/
def Obligations.DrawXorsSpriteAndReportsCollision : Prop :=
  ∀ (x y : RegIdx) (n : Nibble) (s : State), SpriteInRange s.i.toNat n.toNat → ∃ fb' v',
    exec (.draw x y n) s = .next { s with fb := fb', v := v', dirty := true, pc := s.pc + 2 } ∧
    (∀ cx cy, Framebuffer.pixel fb' cx cy = true ↔
      ¬ (s.fb.pixel cx cy = true ↔ SpriteCovers s.mem s.i.toNat n.toNat (s.reg x).toNat (s.reg y).toNat cx cy)) ∧
    ((∃ cx cy, s.fb.pixel cx cy = true ∧
        SpriteCovers s.mem s.i.toNat n.toNat (s.reg x).toNat (s.reg y).toNat cx cy) → v'[vf] = 1) ∧
    ((¬ ∃ cx cy, s.fb.pixel cx cy = true ∧
        SpriteCovers s.mem s.i.toNat n.toNat (s.reg x).toNat (s.reg y).toNat cx cy) → v'[vf] = 0) ∧
    ∀ r : RegIdx, r ≠ vf → v'[r] = s.v[r]

/-- DRAW with a sprite that reaches above 4095 takes the fatal MemoryOutOfRange with its highest address; with no rows it does
so exactly if `I` itself is above 4095, and otherwise draws nothing, sets `dirty` and clears VF (spec/44_display.md section 2;
zero rows: the spec's decision D17, log 15; the fatal as a next state, log 1; the value 0, log 17; `I` unchanged, log 27). -/
def Obligations.DrawOutsideMemoryFaults : Prop :=
  ∀ (x y : RegIdx) (n : Nibble) (s : State),
    (n ≠ 0 → 4095 < s.i.toNat + n.toNat - 1 →
      ∃ t, exec (.draw x y n) s = .next t ∧ t.Fatal .memoryOutOfRange (s.i.toNat + n.toNat - 1)) ∧
    (n = 0 → 4095 < s.i.toNat → ∃ t, exec (.draw x y n) s = .next t ∧ t.Fatal .memoryOutOfRange s.i.toNat) ∧
    (n = 0 → s.i.toNat ≤ 4095 → ∃ v', exec (.draw x y n) s = .next { s with v := v', dirty := true, pc := s.pc + 2 } ∧
      v'[vf] = 0 ∧ ∀ r : RegIdx, r ≠ vf → v'[r] = s.v[r])

/-- The same sprite drawn twice at the same place restores the framebuffer; the second draw reports a collision exactly if the
sprite has a set bit where the framebuffer had a clear pixel; `dirty` is set after both (spec/44_display.md section 2, the
general form derived there; logs 15, 16, 17; `I` kept, log 27). X and Y are not VF, which the first draw overwrites. -/
def Obligations.DrawingTwiceRestoresDisplay : Prop :=
  ∀ (x y : RegIdx) (n : Nibble) (s t u : State), x ≠ vf → y ≠ vf → SpriteInRange s.i.toNat n.toNat →
    exec (.draw x y n) s = .next t → exec (.draw x y n) t = .next u →
    u.fb = s.fb ∧ t.dirty = true ∧ u.dirty = true ∧
    (u.reg vf = 1 ↔ ∃ cx cy, s.fb.pixel cx cy = false ∧
      SpriteCovers s.mem s.i.toNat n.toNat (s.reg x).toNat (s.reg y).toNat cx cy)

/-- The projection of the display is a row-major buffer of 64 x 32 entries: entry `y*64 + x` is the on colour exactly where
the pixel is set (R35). -/
def Obligations.ProjectionIsRowMajor : Prop :=
  ∀ (s : State) (on off : Nat), (s.project on off).length = 2048 ∧
    ∀ (x : Fin 64) (y : Fin 32),
      (s.project on off)[y.val * 64 + x.val]? = some (if s.fb.pixel x y = true then on else off)

/-! ### Keypad and timers (spec/45_keys_timers.md) -/

/-- SKKD skips exactly if the key numbered by VX is down, SKKU exactly if it is up; with VX above 15 both take the fatal
KeyOutOfRange (spec/45_keys_timers.md section 1; the fatal is the spec's decision D12, log 13). -/
def Obligations.KeySkipsFollowKeypad : Prop :=
  ∀ (x : RegIdx) (s : State),
    ((s.reg x).toNat ≤ 15 →
      exec (.skkd x) s = .next { s with
        pc := if s.input.keyDown.getLsbD (s.reg x).toNat = true then s.pc + 4 else s.pc + 2 } ∧
      exec (.skku x) s = .next { s with
        pc := if s.input.keyDown.getLsbD (s.reg x).toNat = false then s.pc + 4 else s.pc + 2 }) ∧
    (15 < (s.reg x).toNat →
      (∃ t, exec (.skkd x) s = .next t ∧ t.Fatal .keyOutOfRange (s.reg x).toNat) ∧
      ∃ t, exec (.skku x) s = .next t ∧ t.Fatal .keyOutOfRange (s.reg x).toNat)

/-- WAITK takes the reported key and goes on, or changes nothing at all while no key is reported (spec/45_keys_timers.md
section 2; how the model holds the cycle's inputs, log 4). -/
def Obligations.WaitKeyTakesKeyOrStays : Prop :=
  ∀ (x : RegIdx) (s : State),
    (∀ k : Key, s.input.lastKey = some k → WritesOnly (.waitk x) s x (BitVec.ofNat 8 k.val)) ∧
    (s.input.lastKey = none → exec (.waitk x) s = .next s)

/-- RDDT reads DT as Execute finds it; WRDT sets DT and WRST sets ST to VX, neither touching the other
(spec/45_keys_timers.md section 3). The tick of the same cycle comes afterwards: TimersTickAfterExecute. -/
def Obligations.TimerInstructionsMoveValues : Prop :=
  ∀ (x : RegIdx) (s : State),
    WritesOnly (.rddt x) s x s.dt ∧
    exec (.wrdt x) s = .next { s with dt := s.reg x, pc := s.pc + 2 } ∧
    exec (.wrst x) s = .next { s with st := s.reg x, pc := s.pc + 2 }

/-- A timer written in a cycle that ticks is one less at the cycle's end, and zero stays zero; one written in a cycle that does
not tick keeps the value; the other timer only ticks (spec/40_cycle_step.md section 3, which marks it as derived). -/
def Obligations.TimerWriteThenTickInOneCycle : Prop :=
  ∀ (x : RegIdx) (s : State),
    (s.Fetches (.wrdt x) → ∃ t, step s = .next t ∧ t.pc = s.pc + 2 ∧
      t.dt.toNat = (if s.input.tickTimers = true then (s.reg x).toNat - 1 else (s.reg x).toNat) ∧
      t.st.toNat = (if s.input.tickTimers = true then s.st.toNat - 1 else s.st.toNat)) ∧
    (s.Fetches (.wrst x) → ∃ t, step s = .next t ∧ t.pc = s.pc + 2 ∧
      t.st.toNat = (if s.input.tickTimers = true then (s.reg x).toNat - 1 else (s.reg x).toNat) ∧
      t.dt.toNat = (if s.input.tickTimers = true then s.dt.toNat - 1 else s.dt.toNat))

/-! ### Reset and the host's commands (spec/70_reset_and_hazards.md, spec/40_cycle_step.md section 4) -/

/-- What the spec states of the state after `reset(ROM)`, from any state and for any ROM that fits: `pc` is 0x200, the
framebuffer is all zero, `initial` is true, the font table is at FONT_BASE and the ROM at 0x200 (R282). -/
def Obligations.ResetLeavesStatedValues : Prop :=
  ∀ (s : State) (rom : List Byte), rom.length ≤ 3584 → ∃ t, perform (.reset rom) s = .next t ∧
    t.pc.toNat = 0x200 ∧ (∀ x y, t.fb.pixel x y = false) ∧ t.initial = true ∧
    (∀ k, k < 80 → t.mem.read (config.fontBase + k) = config.fontData.getD k 0) ∧
    ∀ k, k < rom.length → t.mem.read (0x200 + k) = rom.getD k 0

/-- The rest of the state after `reset(ROM)`, which the source does not state and the spec decides (D6, D7, D14; logs 11, 12):
registers, `I`, timers, depth and stack zero, memory outside font and ROM zero, `dirty` set, not halted. -/
def Obligations.ResetLeavesChosenValues : Prop :=
  ∀ (s : State) (rom : List Byte), rom.length ≤ 3584 → ∃ t, perform (.reset rom) s = .next t ∧
    (∀ r, t.reg r = 0) ∧ t.i = 0 ∧ t.dt = 0 ∧ t.st = 0 ∧ t.depth = 0 ∧ (∀ k, t.stackAt k = 0) ∧
    t.dirty = true ∧ t.halted = false ∧ t.faultCause = none ∧ t.faultInfo = none ∧
    ∀ a, a ≤ 4095 → (a < config.fontBase ∨ config.fontBase + 80 ≤ a) → (a < 0x200 ∨ 0x200 + rom.length ≤ a) →
      t.mem.read a = 0

/-- A ROM longer than 3584 bytes leaves the core halted with MemoryOutOfRange and the highest address of the copy
(spec/70_reset_and_hazards.md section 1; the spec's decision D23, log 21). -/
def Obligations.LongRomHaltsAtReset : Prop :=
  ∀ (s : State) (rom : List Byte), 3584 < rom.length → ∃ t, perform (.reset rom) s = .next t ∧
    t.Fatal .memoryOutOfRange (0x200 + rom.length - 1)

/-- `clear_dirty()` clears `dirty` and changes nothing else, halted or not (R128). -/
def Obligations.ClearDirtyChangesOnlyDirty : Prop :=
  ∀ s : State, perform .clearDirty s = .next { s with dirty := false }

/-- A `cycle` command is one step with its inputs presented: they are what that step reads as the cycle's inputs, and the listed
inputs, which the command leaves as they are, do not matter (spec/40_cycle_step.md section 2; the list is the model's own,
log 4). -/
def Obligations.CycleCommandPresentsItsInputs : Prop :=
  ∀ (s : State) (inp : CycleInputs),
    ({ s with inputs := inp :: s.inputs } : State).input = inp ∧
    (∀ t, step { s with inputs := inp :: s.inputs } = .next t →
      perform (.cycle inp) s = .next { t with inputs := s.inputs }) ∧
    ∀ (inps : List CycleInputs) (t : State), perform (.cycle inp) s = .next t →
      perform (.cycle inp) { s with inputs := inps } = .next { t with inputs := inps }
end

