-- ==== Sys2Proof/Laws/Memory.lean ====
section
/-! SUPPORT. The laws of memory: what a byte reads as after a write, and that every memory operation keeps the canonical
form `Memory.wf`. -/

namespace Sys2Proof.Machine

/-! ### The canonical form -/

@[simp] theorem Memory.wf_nil : Memory.wf [] := by simp [Memory.wf]

theorem Memory.wf_cons {k : Nat} {c : Byte} {m : Memory} :
    Memory.wf ((k, c) :: m) ↔
      (∀ d ∈ m, k < d.1) ∧ k < 4096 ∧ c ≠ Memory.unlisted k ∧ Memory.wf m := by
  simp only [Memory.wf, List.pairwise_cons, List.forall_mem_cons]
  constructor
  · rintro ⟨⟨h1, h2⟩, ⟨h3, h4⟩, h5⟩; exact ⟨h1, h3, h4, h2, h5⟩
  · rintro ⟨h1, h3, h4, h2, h5⟩; exact ⟨⟨h1, h2⟩, ⟨h3, h4⟩, h5⟩

theorem Memory.entry_wf {a : Nat} {b : Byte} {m : Memory} (ha : a < 4096) (hm : m.wf) (h : ∀ d ∈ m, a < d.1) :
    (Memory.entry a b m).wf := by
  unfold Memory.entry
  split
  · exact hm
  · exact Memory.wf_cons.2 ⟨h, ha, ‹_›, hm⟩

theorem Memory.mem_entry {a : Nat} {b : Byte} {m : Memory} {d : Host.Cell} (h : d ∈ Memory.entry a b m) :
    d = (a, b) ∨ d ∈ m := by
  unfold Memory.entry at h
  split at h
  · exact .inr h
  · exact List.mem_cons.1 h

theorem Memory.mem_write {m : Memory} {a : Nat} {b : Byte} {d : Host.Cell} (h : d ∈ m.write a b) :
    d = (a, b) ∨ d ∈ m := by
  induction m with
  | nil => exact Memory.mem_entry h
  | cons e rest ih =>
    obtain ⟨k, c⟩ := e
    unfold Memory.write at h
    split at h
    · exact Memory.mem_entry h
    · split at h
      · exact (Memory.mem_entry h).imp id (List.mem_cons_of_mem _)
      · rcases List.mem_cons.1 h with rfl | h
        · exact .inr List.mem_cons_self
        · exact (ih h).imp id (List.mem_cons_of_mem _)

/-- A write of one byte inside memory keeps the canonical form. -/
theorem Memory.write_wf {m : Memory} {a : Nat} (b : Byte) (hm : m.wf) (ha : a < 4096) : (m.write a b).wf := by
  induction m with
  | nil => exact Memory.entry_wf ha hm (by simp)
  | cons e rest ih =>
    obtain ⟨k, c⟩ := e
    have ⟨h1, h2, h3, h4⟩ := Memory.wf_cons.1 hm
    unfold Memory.write
    split
    · refine Memory.entry_wf ha hm ?_
      rintro d hd
      rcases List.mem_cons.1 hd with rfl | hd
      · assumption
      · have := h1 d hd; omega
    · split
      · subst_vars; exact Memory.entry_wf ha h4 h1
      · refine Memory.wf_cons.2 ⟨?_, h2, h3, ih h4⟩
        rintro d hd
        rcases Memory.mem_write hd with rfl | hd
        · show k < a; omega
        · exact h1 d hd

/-- A write of a list inside memory keeps the canonical form. -/
theorem Memory.writeList_wf {m : Memory} {a : Nat} {bs : List Byte} (hm : m.wf) (h : a + bs.length ≤ 4096) :
    (m.writeList a bs).wf := by
  induction bs generalizing m a with
  | nil => exact hm
  | cons b bs ih =>
    simp only [List.length_cons] at h
    exact ih (Memory.write_wf b hm (by omega)) (by omega)

theorem Memory.ofBytes_eq (f : Nat → Byte) :
    Memory.ofBytes f = ((List.range 4096).filter fun a => f a != Memory.unlisted a).map fun a => (a, f a) := by
  delta Memory.ofBytes; rfl

/-- The memory given by a function is in canonical form. -/
theorem Memory.ofBytes_wf (f : Nat → Byte) : (Memory.ofBytes f).wf := by
  constructor
  · rw [Memory.ofBytes_eq, List.pairwise_map]
    exact (List.pairwise_lt_range).filter _
  · intro c hc
    simp only [Memory.ofBytes_eq, List.mem_map, List.mem_filter, List.mem_range, bne_iff_ne] at hc
    obtain ⟨a, ⟨ha, hne⟩, rfl⟩ := hc
    exact ⟨ha, hne⟩

/-! ### Reading -/

@[simp] theorem Memory.read_nil (a : Nat) : Memory.read [] a = Memory.unlisted a := rfl

theorem Memory.read_cons (k : Nat) (c : Byte) (m : Memory) (a : Nat) :
    Memory.read ((k, c) :: m) a = if k = a then c else m.read a := rfl

/-- An address below every listed one reads as unlisted. -/
theorem Memory.read_of_lt {m : Memory} {a : Nat} (h : ∀ d ∈ m, a < d.1) : m.read a = Memory.unlisted a := by
  induction m with
  | nil => rfl
  | cons e rest ih =>
    obtain ⟨k, c⟩ := e
    have hk : a < k := h (k, c) List.mem_cons_self
    rw [Memory.read_cons, if_neg (by omega), ih fun d hd => h d (List.mem_cons_of_mem _ hd)]

theorem Memory.read_entry {a k : Nat} {b : Byte} {m : Memory} (h : ∀ d ∈ m, a < d.1) :
    (Memory.entry a b m).read k = if k = a then b else m.read k := by
  unfold Memory.entry
  split
  · split
    · subst_vars; exact Memory.read_of_lt h
    · rfl
  · rw [Memory.read_cons]
    by_cases e : a = k
    · simp [e]
    · simp [e, Ne.symm e]

/-- A read after a write: the byte written at its address, the old byte everywhere else. -/
theorem Memory.read_write {m : Memory} (hm : m.wf) (a : Nat) (b : Byte) (k : Nat) :
    (m.write a b).read k = if k = a then b else m.read k := by
  induction m with
  | nil => exact Memory.read_entry (by simp)
  | cons e rest ih =>
    obtain ⟨j, c⟩ := e
    have ⟨h1, _, _, h4⟩ := Memory.wf_cons.1 hm
    unfold Memory.write
    split
    · refine Memory.read_entry ?_
      rintro d hd
      rcases List.mem_cons.1 hd with rfl | hd
      · assumption
      · have := h1 d hd; omega
    · split
      · subst_vars
        rw [Memory.read_entry h1, Memory.read_cons]
        by_cases e : k = j
        · simp [e]
        · simp [e, Ne.symm e]
      · rw [Memory.read_cons, Memory.read_cons, ih h4]
        by_cases e : j = k
        · subst e; rw [if_pos rfl, if_pos rfl, if_neg (by omega)]
        · simp [e]

/-- A read after a write of a list: the listed byte inside its range, the old byte outside. -/
theorem Memory.read_writeList {m : Memory} {a : Nat} {bs : List Byte} (hm : m.wf) (h : a + bs.length ≤ 4096) (k : Nat) :
    (m.writeList a bs).read k = if a ≤ k ∧ k < a + bs.length then bs.getD (k - a) 0 else m.read k := by
  induction bs generalizing m a with
  | nil => rw [if_neg (by simp)]; rfl
  | cons b bs ih =>
    simp only [List.length_cons] at h
    show ((m.write a b).writeList (a + 1) bs).read k = _
    rw [ih (Memory.write_wf b hm (by omega)) (by omega), Memory.read_write hm]
    by_cases h1 : a + 1 ≤ k ∧ k < a + 1 + bs.length
    · rw [if_pos h1, if_pos (by simp only [List.length_cons]; omega)]
      obtain ⟨n, hn⟩ : ∃ n, k - a = n + 1 := ⟨k - a - 1, by omega⟩
      rw [hn, show k - (a + 1) = n by omega, List.getD_cons_succ]
    · rw [if_neg h1]
      by_cases h2 : k = a
      · subst h2; simp
      · rw [if_neg h2, if_neg (by simp only [List.length_cons]; omega)]

@[simp] theorem Memory.length_readList (m : Memory) (a n : Nat) : (m.readList a n).length = n := by
  simp [Memory.readList]

theorem Memory.getD_readList (m : Memory) (a : Nat) {n k : Nat} (h : k < n) (d : Byte) :
    (m.readList a n).getD k d = m.read (a + k) := by
  simp [Memory.readList, h]

/-- Every cell of the memory given by a function reads as the function says. -/
theorem Memory.read_ofBytes (f : Nat → Byte) {a : Nat} (ha : a < 4096) : (Memory.ofBytes f).read a = f a := by
  suffices h : ∀ l : List Nat, Memory.read ((l.filter fun a => f a != Memory.unlisted a).map fun a => (a, f a)) a =
      if a ∈ l then f a else Memory.unlisted a by
    rw [Memory.ofBytes_eq, h, if_pos (List.mem_range.2 ha)]
  intro l
  induction l with
  | nil => simp
  | cons k l ih =>
    by_cases hk : f k = Memory.unlisted k
    · rw [List.filter_cons_of_neg (by simpa using hk), ih]
      by_cases e : a = k
      · subst e; simp [hk]
      · simp [e]
    · rw [List.filter_cons_of_pos (by simpa using hk), List.map_cons, Memory.read_cons, ih]
      by_cases e : k = a
      · subst e; simp
      · simp [e, Ne.symm e]

end Sys2Proof.Machine
end

