-- ==== Sys2Proof/Laws/State.lean ====
section
/-! SUPPORT. One lemma per field per update of `State`, each true by unfolding the update once; and what a register reads
after an update. -/

namespace Sys2Proof.Machine

variable (s : State)

/-! ### setReg -/

@[simp] theorem State.setReg_v (x : RegIdx) (b : Byte) : (s.setReg x b).v = s.v.set x b := rfl
@[simp] theorem State.setReg_pc (x : RegIdx) (b : Byte) : (s.setReg x b).pc = s.pc := rfl
@[simp] theorem State.setReg_i (x : RegIdx) (b : Byte) : (s.setReg x b).i = s.i := rfl
@[simp] theorem State.setReg_stack (x : RegIdx) (b : Byte) : (s.setReg x b).stack = s.stack := rfl
@[simp] theorem State.setReg_depth (x : RegIdx) (b : Byte) : (s.setReg x b).depth = s.depth := rfl
@[simp] theorem State.setReg_dt (x : RegIdx) (b : Byte) : (s.setReg x b).dt = s.dt := rfl
@[simp] theorem State.setReg_st (x : RegIdx) (b : Byte) : (s.setReg x b).st = s.st := rfl
@[simp] theorem State.setReg_fb (x : RegIdx) (b : Byte) : (s.setReg x b).fb = s.fb := rfl
@[simp] theorem State.setReg_dirty (x : RegIdx) (b : Byte) : (s.setReg x b).dirty = s.dirty := rfl
@[simp] theorem State.setReg_mem (x : RegIdx) (b : Byte) : (s.setReg x b).mem = s.mem := rfl
@[simp] theorem State.setReg_initial (x : RegIdx) (b : Byte) : (s.setReg x b).initial = s.initial := rfl
@[simp] theorem State.setReg_halted (x : RegIdx) (b : Byte) : (s.setReg x b).halted = s.halted := rfl
@[simp] theorem State.setReg_faultCause (x : RegIdx) (b : Byte) : (s.setReg x b).faultCause = s.faultCause := rfl
@[simp] theorem State.setReg_faultInfo (x : RegIdx) (b : Byte) : (s.setReg x b).faultInfo = s.faultInfo := rfl
@[simp] theorem State.setReg_inputs (x : RegIdx) (b : Byte) : (s.setReg x b).inputs = s.inputs := rfl
@[simp] theorem State.setReg_draws (x : RegIdx) (b : Byte) : (s.setReg x b).draws = s.draws := rfl

/-! ### setRegs -/

@[simp] theorem State.setRegs_v (bs : List Byte) : (s.setRegs bs).v = Vector.ofFn fun r : RegIdx => bs.getD r (s.reg r) := rfl
@[simp] theorem State.setRegs_pc (bs : List Byte) : (s.setRegs bs).pc = s.pc := rfl
@[simp] theorem State.setRegs_i (bs : List Byte) : (s.setRegs bs).i = s.i := rfl
@[simp] theorem State.setRegs_stack (bs : List Byte) : (s.setRegs bs).stack = s.stack := rfl
@[simp] theorem State.setRegs_depth (bs : List Byte) : (s.setRegs bs).depth = s.depth := rfl
@[simp] theorem State.setRegs_dt (bs : List Byte) : (s.setRegs bs).dt = s.dt := rfl
@[simp] theorem State.setRegs_st (bs : List Byte) : (s.setRegs bs).st = s.st := rfl
@[simp] theorem State.setRegs_fb (bs : List Byte) : (s.setRegs bs).fb = s.fb := rfl
@[simp] theorem State.setRegs_dirty (bs : List Byte) : (s.setRegs bs).dirty = s.dirty := rfl
@[simp] theorem State.setRegs_mem (bs : List Byte) : (s.setRegs bs).mem = s.mem := rfl
@[simp] theorem State.setRegs_initial (bs : List Byte) : (s.setRegs bs).initial = s.initial := rfl
@[simp] theorem State.setRegs_halted (bs : List Byte) : (s.setRegs bs).halted = s.halted := rfl
@[simp] theorem State.setRegs_faultCause (bs : List Byte) : (s.setRegs bs).faultCause = s.faultCause := rfl
@[simp] theorem State.setRegs_faultInfo (bs : List Byte) : (s.setRegs bs).faultInfo = s.faultInfo := rfl
@[simp] theorem State.setRegs_inputs (bs : List Byte) : (s.setRegs bs).inputs = s.inputs := rfl
@[simp] theorem State.setRegs_draws (bs : List Byte) : (s.setRegs bs).draws = s.draws := rfl

/-! ### setIndex -/

@[simp] theorem State.setIndex_v (a : Word) : (s.setIndex a).v = s.v := rfl
@[simp] theorem State.setIndex_pc (a : Word) : (s.setIndex a).pc = s.pc := rfl
@[simp] theorem State.setIndex_i (a : Word) : (s.setIndex a).i = a := rfl
@[simp] theorem State.setIndex_stack (a : Word) : (s.setIndex a).stack = s.stack := rfl
@[simp] theorem State.setIndex_depth (a : Word) : (s.setIndex a).depth = s.depth := rfl
@[simp] theorem State.setIndex_dt (a : Word) : (s.setIndex a).dt = s.dt := rfl
@[simp] theorem State.setIndex_st (a : Word) : (s.setIndex a).st = s.st := rfl
@[simp] theorem State.setIndex_fb (a : Word) : (s.setIndex a).fb = s.fb := rfl
@[simp] theorem State.setIndex_dirty (a : Word) : (s.setIndex a).dirty = s.dirty := rfl
@[simp] theorem State.setIndex_mem (a : Word) : (s.setIndex a).mem = s.mem := rfl
@[simp] theorem State.setIndex_initial (a : Word) : (s.setIndex a).initial = s.initial := rfl
@[simp] theorem State.setIndex_halted (a : Word) : (s.setIndex a).halted = s.halted := rfl
@[simp] theorem State.setIndex_faultCause (a : Word) : (s.setIndex a).faultCause = s.faultCause := rfl
@[simp] theorem State.setIndex_faultInfo (a : Word) : (s.setIndex a).faultInfo = s.faultInfo := rfl
@[simp] theorem State.setIndex_inputs (a : Word) : (s.setIndex a).inputs = s.inputs := rfl
@[simp] theorem State.setIndex_draws (a : Word) : (s.setIndex a).draws = s.draws := rfl

/-! ### jumpTo -/

@[simp] theorem State.jumpTo_v (a : Word) : (s.jumpTo a).v = s.v := rfl
@[simp] theorem State.jumpTo_pc (a : Word) : (s.jumpTo a).pc = a := rfl
@[simp] theorem State.jumpTo_i (a : Word) : (s.jumpTo a).i = s.i := rfl
@[simp] theorem State.jumpTo_stack (a : Word) : (s.jumpTo a).stack = s.stack := rfl
@[simp] theorem State.jumpTo_depth (a : Word) : (s.jumpTo a).depth = s.depth := rfl
@[simp] theorem State.jumpTo_dt (a : Word) : (s.jumpTo a).dt = s.dt := rfl
@[simp] theorem State.jumpTo_st (a : Word) : (s.jumpTo a).st = s.st := rfl
@[simp] theorem State.jumpTo_fb (a : Word) : (s.jumpTo a).fb = s.fb := rfl
@[simp] theorem State.jumpTo_dirty (a : Word) : (s.jumpTo a).dirty = s.dirty := rfl
@[simp] theorem State.jumpTo_mem (a : Word) : (s.jumpTo a).mem = s.mem := rfl
@[simp] theorem State.jumpTo_initial (a : Word) : (s.jumpTo a).initial = s.initial := rfl
@[simp] theorem State.jumpTo_halted (a : Word) : (s.jumpTo a).halted = s.halted := rfl
@[simp] theorem State.jumpTo_faultCause (a : Word) : (s.jumpTo a).faultCause = s.faultCause := rfl
@[simp] theorem State.jumpTo_faultInfo (a : Word) : (s.jumpTo a).faultInfo = s.faultInfo := rfl
@[simp] theorem State.jumpTo_inputs (a : Word) : (s.jumpTo a).inputs = s.inputs := rfl
@[simp] theorem State.jumpTo_draws (a : Word) : (s.jumpTo a).draws = s.draws := rfl

/-! ### advance -/

@[simp] theorem State.advance_v : (s.advance).v = s.v := rfl
@[simp] theorem State.advance_pc : (s.advance).pc = s.pc + 2 := rfl
@[simp] theorem State.advance_i : (s.advance).i = s.i := rfl
@[simp] theorem State.advance_stack : (s.advance).stack = s.stack := rfl
@[simp] theorem State.advance_depth : (s.advance).depth = s.depth := rfl
@[simp] theorem State.advance_dt : (s.advance).dt = s.dt := rfl
@[simp] theorem State.advance_st : (s.advance).st = s.st := rfl
@[simp] theorem State.advance_fb : (s.advance).fb = s.fb := rfl
@[simp] theorem State.advance_dirty : (s.advance).dirty = s.dirty := rfl
@[simp] theorem State.advance_mem : (s.advance).mem = s.mem := rfl
@[simp] theorem State.advance_initial : (s.advance).initial = s.initial := rfl
@[simp] theorem State.advance_halted : (s.advance).halted = s.halted := rfl
@[simp] theorem State.advance_faultCause : (s.advance).faultCause = s.faultCause := rfl
@[simp] theorem State.advance_faultInfo : (s.advance).faultInfo = s.faultInfo := rfl
@[simp] theorem State.advance_inputs : (s.advance).inputs = s.inputs := rfl
@[simp] theorem State.advance_draws : (s.advance).draws = s.draws := rfl

/-! ### skipIf -/

@[simp] theorem State.skipIf_v (c : Bool) : (s.skipIf c).v = s.v := rfl
@[simp] theorem State.skipIf_pc (c : Bool) : (s.skipIf c).pc = s.pc + if c then 4 else 2 := rfl
@[simp] theorem State.skipIf_i (c : Bool) : (s.skipIf c).i = s.i := rfl
@[simp] theorem State.skipIf_stack (c : Bool) : (s.skipIf c).stack = s.stack := rfl
@[simp] theorem State.skipIf_depth (c : Bool) : (s.skipIf c).depth = s.depth := rfl
@[simp] theorem State.skipIf_dt (c : Bool) : (s.skipIf c).dt = s.dt := rfl
@[simp] theorem State.skipIf_st (c : Bool) : (s.skipIf c).st = s.st := rfl
@[simp] theorem State.skipIf_fb (c : Bool) : (s.skipIf c).fb = s.fb := rfl
@[simp] theorem State.skipIf_dirty (c : Bool) : (s.skipIf c).dirty = s.dirty := rfl
@[simp] theorem State.skipIf_mem (c : Bool) : (s.skipIf c).mem = s.mem := rfl
@[simp] theorem State.skipIf_initial (c : Bool) : (s.skipIf c).initial = s.initial := rfl
@[simp] theorem State.skipIf_halted (c : Bool) : (s.skipIf c).halted = s.halted := rfl
@[simp] theorem State.skipIf_faultCause (c : Bool) : (s.skipIf c).faultCause = s.faultCause := rfl
@[simp] theorem State.skipIf_faultInfo (c : Bool) : (s.skipIf c).faultInfo = s.faultInfo := rfl
@[simp] theorem State.skipIf_inputs (c : Bool) : (s.skipIf c).inputs = s.inputs := rfl
@[simp] theorem State.skipIf_draws (c : Bool) : (s.skipIf c).draws = s.draws := rfl

/-! ### tickIf -/

@[simp] theorem State.tickIf_v (c : Bool) : (s.tickIf c).v = s.v := rfl
@[simp] theorem State.tickIf_pc (c : Bool) : (s.tickIf c).pc = s.pc := rfl
@[simp] theorem State.tickIf_i (c : Bool) : (s.tickIf c).i = s.i := rfl
@[simp] theorem State.tickIf_stack (c : Bool) : (s.tickIf c).stack = s.stack := rfl
@[simp] theorem State.tickIf_depth (c : Bool) : (s.tickIf c).depth = s.depth := rfl
@[simp] theorem State.tickIf_dt (c : Bool) : (s.tickIf c).dt = if c then tick s.dt else s.dt := rfl
@[simp] theorem State.tickIf_st (c : Bool) : (s.tickIf c).st = if c then tick s.st else s.st := rfl
@[simp] theorem State.tickIf_fb (c : Bool) : (s.tickIf c).fb = s.fb := rfl
@[simp] theorem State.tickIf_dirty (c : Bool) : (s.tickIf c).dirty = s.dirty := rfl
@[simp] theorem State.tickIf_mem (c : Bool) : (s.tickIf c).mem = s.mem := rfl
@[simp] theorem State.tickIf_initial (c : Bool) : (s.tickIf c).initial = s.initial := rfl
@[simp] theorem State.tickIf_halted (c : Bool) : (s.tickIf c).halted = s.halted := rfl
@[simp] theorem State.tickIf_faultCause (c : Bool) : (s.tickIf c).faultCause = s.faultCause := rfl
@[simp] theorem State.tickIf_faultInfo (c : Bool) : (s.tickIf c).faultInfo = s.faultInfo := rfl
@[simp] theorem State.tickIf_inputs (c : Bool) : (s.tickIf c).inputs = s.inputs := rfl
@[simp] theorem State.tickIf_draws (c : Bool) : (s.tickIf c).draws = s.draws := rfl

/-! ### clearDirty -/

@[simp] theorem State.clearDirty_v : (s.clearDirty).v = s.v := rfl
@[simp] theorem State.clearDirty_pc : (s.clearDirty).pc = s.pc := rfl
@[simp] theorem State.clearDirty_i : (s.clearDirty).i = s.i := rfl
@[simp] theorem State.clearDirty_stack : (s.clearDirty).stack = s.stack := rfl
@[simp] theorem State.clearDirty_depth : (s.clearDirty).depth = s.depth := rfl
@[simp] theorem State.clearDirty_dt : (s.clearDirty).dt = s.dt := rfl
@[simp] theorem State.clearDirty_st : (s.clearDirty).st = s.st := rfl
@[simp] theorem State.clearDirty_fb : (s.clearDirty).fb = s.fb := rfl
@[simp] theorem State.clearDirty_dirty : (s.clearDirty).dirty = false := rfl
@[simp] theorem State.clearDirty_mem : (s.clearDirty).mem = s.mem := rfl
@[simp] theorem State.clearDirty_initial : (s.clearDirty).initial = s.initial := rfl
@[simp] theorem State.clearDirty_halted : (s.clearDirty).halted = s.halted := rfl
@[simp] theorem State.clearDirty_faultCause : (s.clearDirty).faultCause = s.faultCause := rfl
@[simp] theorem State.clearDirty_faultInfo : (s.clearDirty).faultInfo = s.faultInfo := rfl
@[simp] theorem State.clearDirty_inputs : (s.clearDirty).inputs = s.inputs := rfl
@[simp] theorem State.clearDirty_draws : (s.clearDirty).draws = s.draws := rfl

/-! ### dropInput -/

@[simp] theorem State.dropInput_v : (s.dropInput).v = s.v := rfl
@[simp] theorem State.dropInput_pc : (s.dropInput).pc = s.pc := rfl
@[simp] theorem State.dropInput_i : (s.dropInput).i = s.i := rfl
@[simp] theorem State.dropInput_stack : (s.dropInput).stack = s.stack := rfl
@[simp] theorem State.dropInput_depth : (s.dropInput).depth = s.depth := rfl
@[simp] theorem State.dropInput_dt : (s.dropInput).dt = s.dt := rfl
@[simp] theorem State.dropInput_st : (s.dropInput).st = s.st := rfl
@[simp] theorem State.dropInput_fb : (s.dropInput).fb = s.fb := rfl
@[simp] theorem State.dropInput_dirty : (s.dropInput).dirty = s.dirty := rfl
@[simp] theorem State.dropInput_mem : (s.dropInput).mem = s.mem := rfl
@[simp] theorem State.dropInput_initial : (s.dropInput).initial = s.initial := rfl
@[simp] theorem State.dropInput_halted : (s.dropInput).halted = s.halted := rfl
@[simp] theorem State.dropInput_faultCause : (s.dropInput).faultCause = s.faultCause := rfl
@[simp] theorem State.dropInput_faultInfo : (s.dropInput).faultInfo = s.faultInfo := rfl
@[simp] theorem State.dropInput_inputs : (s.dropInput).inputs = s.inputs.tail := rfl
@[simp] theorem State.dropInput_draws : (s.dropInput).draws = s.draws := rfl

/-! ### finish -/

@[simp] theorem State.finish_v : (s.finish).v = s.v := rfl
@[simp] theorem State.finish_pc : (s.finish).pc = s.pc := rfl
@[simp] theorem State.finish_i : (s.finish).i = s.i := rfl
@[simp] theorem State.finish_stack : (s.finish).stack = s.stack := rfl
@[simp] theorem State.finish_depth : (s.finish).depth = s.depth := rfl
@[simp] theorem State.finish_dt : (s.finish).dt = if s.input.tickTimers then tick s.dt else s.dt := rfl
@[simp] theorem State.finish_st : (s.finish).st = if s.input.tickTimers then tick s.st else s.st := rfl
@[simp] theorem State.finish_fb : (s.finish).fb = s.fb := rfl
@[simp] theorem State.finish_dirty : (s.finish).dirty = s.dirty := rfl
@[simp] theorem State.finish_mem : (s.finish).mem = s.mem := rfl
@[simp] theorem State.finish_initial : (s.finish).initial = false := rfl
@[simp] theorem State.finish_halted : (s.finish).halted = s.halted := rfl
@[simp] theorem State.finish_faultCause : (s.finish).faultCause = s.faultCause := rfl
@[simp] theorem State.finish_faultInfo : (s.finish).faultInfo = s.faultInfo := rfl
@[simp] theorem State.finish_inputs : (s.finish).inputs = s.inputs := rfl
@[simp] theorem State.finish_draws : (s.finish).draws = s.draws + 1 := rfl

/-! ### fatal: the latch and the model's own fields; the rest is free -/

@[simp] theorem State.fatal_halted (c : Fault) (info : Nat) : (s.fatal c info).halted = true := rfl
@[simp] theorem State.fatal_faultCause (c : Fault) (info : Nat) : (s.fatal c info).faultCause = some c := rfl
@[simp] theorem State.fatal_faultInfo (c : Fault) (info : Nat) : (s.fatal c info).faultInfo = some info := rfl
@[simp] theorem State.fatal_inputs (c : Fault) (info : Nat) : (s.fatal c info).inputs = s.inputs := rfl
@[simp] theorem State.fatal_draws (c : Fault) (info : Nat) : (s.fatal c info).draws = s.draws + 1 := rfl

/-! ### Registers and inputs seen through the updates -/

theorem State.reg_setReg (x r : RegIdx) (b : Byte) : (s.setReg x b).reg r = if r = x then b else s.reg r := by
  by_cases h : r = x
  · subst h; simp [State.reg]
  · have : (x : Nat) ≠ r := fun e => h (Fin.ext e.symm)
    simp [State.reg, h, this]

@[simp] theorem State.reg_setReg_same (x : RegIdx) (b : Byte) : (s.setReg x b).reg x = b := by simp [State.reg_setReg]

theorem State.reg_setReg_ne {x r : RegIdx} (h : r ≠ x) (b : Byte) : (s.setReg x b).reg r = s.reg r := by
  simp [State.reg_setReg, h]

@[simp] theorem State.reg_setRegs (bs : List Byte) (r : RegIdx) : (s.setRegs bs).reg r = bs.getD r (s.reg r) := by
  simp [State.reg]

@[simp] theorem State.reg_setIndex (a : Word) (r : RegIdx) : (s.setIndex a).reg r = s.reg r := rfl
@[simp] theorem State.reg_jumpTo (a : Word) (r : RegIdx) : (s.jumpTo a).reg r = s.reg r := rfl
@[simp] theorem State.reg_advance (r : RegIdx) : (s.advance).reg r = s.reg r := rfl
@[simp] theorem State.reg_skipIf (c : Bool) (r : RegIdx) : (s.skipIf c).reg r = s.reg r := rfl
@[simp] theorem State.reg_tickIf (c : Bool) (r : RegIdx) : (s.tickIf c).reg r = s.reg r := rfl
@[simp] theorem State.reg_clearDirty (r : RegIdx) : (s.clearDirty).reg r = s.reg r := rfl
@[simp] theorem State.reg_dropInput (r : RegIdx) : (s.dropInput).reg r = s.reg r := rfl
@[simp] theorem State.reg_finish (r : RegIdx) : (s.finish).reg r = s.reg r := rfl

@[simp] theorem State.input_setReg (x : RegIdx) (b : Byte) : (s.setReg x b).input = s.input := rfl
@[simp] theorem State.input_setRegs (bs : List Byte) : (s.setRegs bs).input = s.input := rfl
@[simp] theorem State.input_setIndex (a : Word) : (s.setIndex a).input = s.input := rfl
@[simp] theorem State.input_jumpTo (a : Word) : (s.jumpTo a).input = s.input := rfl
@[simp] theorem State.input_advance : (s.advance).input = s.input := rfl
@[simp] theorem State.input_skipIf (c : Bool) : (s.skipIf c).input = s.input := rfl
@[simp] theorem State.input_tickIf (c : Bool) : (s.tickIf c).input = s.input := rfl
@[simp] theorem State.input_clearDirty : (s.clearDirty).input = s.input := rfl

end Sys2Proof.Machine
end

