-- ==== Sys2Proof/Laws/Ops.lean ====
section
/-! SUPPORT. One lemma per shared operation that says everything it can do, to be cited instead of unfolding it. -/

namespace Sys2Proof.Machine

variable {s t : State}

/-! ### Memory accesses -/

/-- A read either is inside 0..4095 and gives the bytes, or raises MemoryOutOfRange with the highest address. -/
theorem State.memRead_cases (s : State) (addr n : Nat) :
    (addr + n ≤ 4096 ∧ addr ≤ 4095 ∧ s.memRead addr n = .ok (s.mem.readList addr n)) ∨
    (n ≠ 0 ∧ 4096 < addr + n ∧ s.memRead addr n = .error (.memoryOutOfRange, addr + n - 1)) ∨
    (n = 0 ∧ 4095 < addr ∧ s.memRead addr n = .error (.memoryOutOfRange, addr)) := by
  unfold State.memRead
  by_cases h0 : n = 0
  · subst h0
    by_cases h : 4095 < addr
    · simp [h]
    · refine .inl ⟨by omega, by omega, ?_⟩
      simp [h, Memory.readList]
  · by_cases h : 4095 < addr + n - 1
    · refine .inr (.inl ⟨h0, by omega, ?_⟩); simp [h0, h]
    · refine .inl ⟨by omega, by omega, ?_⟩; simp [h0, h]

theorem State.memRead_ok {addr n : Nat} (h : addr + n ≤ 4096) (ha : addr ≤ 4095) :
    s.memRead addr n = .ok (s.mem.readList addr n) := by
  rcases s.memRead_cases addr n with ⟨_, _, e⟩ | ⟨_, h', _⟩ | ⟨_, h', _⟩
  · exact e
  · omega
  · omega

/-- A bulk write of at least one byte either is inside 0..4095 and writes all bytes, or raises MemoryOutOfRange. -/
theorem State.memWrite_cases (s : State) (addr : Nat) {bs : List Byte} (hb : bs ≠ []) :
    (addr + bs.length ≤ 4096 ∧ s.memWrite addr bs = .ok { s with mem := s.mem.writeList addr bs }) ∨
    (4096 < addr + bs.length ∧ s.memWrite addr bs = .error (.memoryOutOfRange, addr + bs.length - 1)) := by
  have : 0 < bs.length := List.length_pos_of_ne_nil hb
  unfold State.memWrite
  by_cases h : 4095 < addr + bs.length - 1
  · exact .inr ⟨by omega, by simp [h]⟩
  · exact .inl ⟨by omega, by simp [h]⟩

theorem State.memWrite_ok {addr : Nat} {bs : List Byte} (h : addr + bs.length ≤ 4096) :
    s.memWrite addr bs = .ok { s with mem := s.mem.writeList addr bs } := by
  unfold State.memWrite
  rw [if_neg (by omega)]

/-- A fetch reads two bytes at `pc`, the first the high one, or raises MemoryOutOfRange with info `pc + 1`. -/
theorem State.fetch_cases (s : State) :
    (s.pc.toNat ≤ 4094 ∧
      s.fetch = .ok (BitVec.ofNat 16 ((s.mem.read s.pc.toNat).toNat * 256 + (s.mem.read (s.pc.toNat + 1)).toNat))) ∨
    (4095 ≤ s.pc.toNat ∧ s.fetch = .error (.memoryOutOfRange, s.pc.toNat + 1)) := by
  unfold State.fetch
  rcases s.memRead_cases s.pc.toNat 2 with ⟨h, _, e⟩ | ⟨_, h, e⟩ | ⟨h, _, _⟩
  · refine .inl ⟨by omega, ?_⟩
    rw [e]
    simp [Memory.readList, bigEndian, List.range_succ]
  · exact .inr ⟨by omega, by simp [e]⟩
  · omega

/-! ### Stack -/

/-- A push either stores the value on top, or raises StackOverflow with it. -/
theorem State.push_cases (s : State) (a : Word) :
    (s.depth < config.stackCapacity ∧
      s.push a = .ok { s with stack := s.stack.setIfInBounds s.depth a, depth := s.depth + 1 }) ∨
    (config.stackCapacity ≤ s.depth ∧ s.push a = .error (.stackOverflow, a.toNat)) := by
  unfold State.push
  by_cases h : s.depth < config.stackCapacity
  · exact .inl ⟨h, by simp [h]⟩
  · exact .inr ⟨by omega, by simp [h]⟩

/-- A pop either gives the top entry, or raises StackUnderflow. -/
theorem State.pop_cases (s : State) :
    (0 < s.depth ∧ s.pop = .ok (s.stackAt (s.depth - 1), { s with depth := s.depth - 1 })) ∨
    (s.depth = 0 ∧ s.pop = .error (.stackUnderflow, 0)) := by
  unfold State.pop
  by_cases h : s.depth = 0
  · exact .inr ⟨h, by simp [h]⟩
  · exact .inl ⟨by omega, by simp [h]⟩

/-- The entry just pushed is the one at the old depth; the others are as before. -/
theorem State.stackAt_push {a : Word} (h : s.depth < config.stackCapacity) (d k : Nat) :
    State.stackAt { s with stack := s.stack.setIfInBounds s.depth a, depth := d } k =
      if k = s.depth then a else s.stackAt k := by
  by_cases hk : k = s.depth
  · subst hk; simp [State.stackAt, h]
  · simp [State.stackAt, hk, Ne.symm hk]

/-! ### Ending an instruction -/

/-- A fatal reads nothing of the state but the model's own fields: what it leaves does not depend on the rest. -/
theorem State.fatal_congr (hi : s.inputs = t.inputs) (hd : s.draws = t.draws) (c : Fault) (info : Nat) :
    s.fatal c info = t.fatal c info := by
  simp only [State.fatal, hi, hd]

/-- A fatal leaves the listed inputs as they are, and reads none of them. -/
theorem State.fatal_withInputs (s : State) (inps : List CycleInputs) (c : Fault) (info : Nat) :
    State.fatal { s with inputs := inps } c info = { s.fatal c info with inputs := inps } := by
  simp only [State.fatal]

@[simp] theorem State.attempt_ok (s t : State) : s.attempt (.ok t) = .next t := rfl

@[simp] theorem State.attempt_error (s : State) (c : Fault) (info : Nat) :
    s.attempt (.error (c, info)) = .next (s.fatal c info) := rfl

/-- An instruction that may raise a fatal answers its result, or the fatal taken. -/
theorem State.attempt_next {r : Checked State} (h : s.attempt r = .next t) :
    r = .ok t ∨ ∃ c info, r = .error (c, info) ∧ t = s.fatal c info := by
  match r with
  | .ok u => simp at h; exact .inl (by rw [h])
  | .error (c, info) => simp at h; exact .inr ⟨c, info, rfl, h.symm⟩

/-! ### Flag-producing results -/

/-- With X other than 15: the result in VX, the flag in VF, every other register as before. -/
theorem State.reg_setResultAndFlag {x : RegIdx} (hx : x ≠ vf) (b : Byte) (c : Bool) (r : RegIdx) :
    (s.setResultAndFlag x b c).reg r = if r = vf then flagByte c else if r = x then b else s.reg r := by
  simp [State.setResultAndFlag, hx, State.reg_setReg]

/-- With X = 15: a free value in VF, every other register as before. -/
theorem State.reg_setResultAndFlag_vf (b : Byte) (c : Bool) (r : RegIdx) :
    (s.setResultAndFlag vf b c).reg r = if r = vf then Config.flagClash s.draws else s.reg r := by
  simp [State.setResultAndFlag, State.reg_setReg]

/-- The write of a result and a flag changes the registers and nothing else. -/
theorem State.setResultAndFlag_eq (s : State) (x : RegIdx) (b : Byte) (c : Bool) :
    s.setResultAndFlag x b c = { s with v := (s.setResultAndFlag x b c).v } := by
  unfold State.setResultAndFlag; split <;> rfl

/-! ### Pixels -/

/-- Reading a pixel after a write: the pixel written at its place, the old pixel everywhere else. -/
theorem Framebuffer.pixel_setPixel (fb : Framebuffer) (x x' : Fin 64) (y y' : Fin 32) (p : Bool) :
    (fb.setPixel x y p).pixel x' y' = if x' = x ∧ y' = y then p else fb.pixel x' y' := by
  by_cases hy : y' = y
  · subst hy
    by_cases hx : x' = x
    · subst hx; simp [Framebuffer.pixel, Framebuffer.setPixel]
    · have : (x : Nat) ≠ x' := fun e => hx (Fin.ext e.symm)
      simp [Framebuffer.pixel, Framebuffer.setPixel, hx, this]
  · have : (y : Nat) ≠ y' := fun e => hy (Fin.ext e.symm)
    simp [Framebuffer.pixel, Framebuffer.setPixel, hy, this]

@[simp] theorem Framebuffer.pixel_blank (x : Fin 64) (y : Fin 32) : Framebuffer.blank.pixel x y = false := by
  simp [Framebuffer.pixel, Framebuffer.blank]

@[simp] theorem Blit.putBit_fb (d : Blit) (x : Fin 64) (y : Fin 32) (bit : Bool) :
    (d.putBit x y bit).fb = d.fb.setPixel x y (d.fb.pixel x y ^^ bit) := rfl

@[simp] theorem Blit.putBit_collision (d : Blit) (x : Fin 64) (y : Fin 32) (bit : Bool) :
    (d.putBit x y bit).collision = (d.collision || (bit && d.fb.pixel x y)) := rfl

/-! ### The cycle -/

/-- Everything a step can do: nothing (halted), a fatal of fetch, a fatal of decode, or the decoded instruction and the end
of the cycle around it. -/
theorem step_cases (s : State) :
    (s.halted = true ∧ step s = .next s) ∨
    (s.halted = false ∧ ∃ c info, s.fetch = .error (c, info) ∧ step s = .next (s.fatal c info).dropInput) ∨
    (s.halted = false ∧ ∃ op e, s.fetch = .ok op ∧ decodeWord op = .error e ∧
      step s = .next (s.clearDirty.fatal .unknownOpcode op.toNat).dropInput) ∨
    (s.halted = false ∧ ∃ op i, s.fetch = .ok op ∧ decodeWord op = .ok i ∧
      step s = State.endCycle (exec i s.clearDirty)) := by
  unfold step cycle
  cases hh : s.halted with
  | true => simp
  | false =>
    cases hf : s.fetch with
    | error e => obtain ⟨c, info⟩ := e; simp
    | ok op =>
      cases hd : decodeWord op with
      | error e => simp [hd]
      | ok i => simp [hd]

end Sys2Proof.Machine
end

