-- ==== Sys2Proof/Laws/PerInstr.lean ====
section
/-! SUPPORT. Statements made per instruction, as syntax. The family `TableRow`: the instruction's word has the fixed bits of
its row of the opcode map (spec/30_encoding.md R93: "A word matches an instruction when `(op AND mask) = match`"). -/

namespace Sys2Proof.Laws

/-- Every instruction term is well formed: the operand types are as wide as the fields. -/
theorem wellFormed_all (i : Instr) : i.wellFormed = true := by
  cases i <;> simp [Instr.wellFormed, regFits, byteFits, addrFits, rowsFit] <;> omega

/-- The bitwise and of two numbers, taken apart at bit k. -/
theorem land_split (k : Nat) {a b c d : Nat} (hb : b < 2 ^ k) (hd : d < 2 ^ k) :
    (2 ^ k * a + b) &&& (2 ^ k * c + d) = 2 ^ k * (a &&& c) + (b &&& d) := by
  have hbd : b &&& d < 2 ^ k := lt_of_le_of_lt Nat.and_le_left hb
  refine Nat.eq_of_testBit_eq fun j => ?_
  rw [Nat.testBit_and, Nat.testBit_two_pow_mul_add a hb, Nat.testBit_two_pow_mul_add c hd,
    Nat.testBit_two_pow_mul_add _ hbd]
  split <;> simp

/-- The mask of the formats A, I and D keeps the family nibble (R93). -/
theorem mask_F000 (f : Nat) {r : Nat} (hr : r < 4096) : (4096 * f + r) &&& 0xF000 = 4096 * (f &&& 15) := by
  simpa using land_split 12 (a := f) (b := r) (c := 15) (d := 0) hr (by norm_num)

/-- The mask of format R keeps the family nibble and N (R93). -/
theorem mask_F00F (f : Nat) {m n : Nat} (hm : m < 256) (hn : n < 16) :
    (4096 * f + (16 * m + n)) &&& 0xF00F = 4096 * (f &&& 15) + (n &&& 15) := by
  have h1 := land_split 12 (a := f) (b := 16 * m + n) (c := 15) (d := 15) (by omega) (by norm_num)
  have h2 := land_split 4 (a := m) (b := n) (c := 0) (d := 15) hn (by norm_num)
  norm_num at h1 h2
  rw [h1, h2]

/-- The mask of format U keeps the family nibble and NN (R93). -/
theorem mask_F0FF (f : Nat) {x n : Nat} (hx : x < 16) (hn : n < 256) :
    (4096 * f + (256 * x + n)) &&& 0xF0FF = 4096 * (f &&& 15) + (n &&& 255) := by
  have h1 := land_split 12 (a := f) (b := 256 * x + n) (c := 15) (d := 255) (by omega) (by norm_num)
  have h2 := land_split 8 (a := x) (b := n) (c := 0) (d := 255) hn (by norm_num)
  norm_num at h1 h2
  rw [h1, h2]

namespace TableRow

/-- The word of the instruction, masked as its format says, is the fixed bits of its row (R93, R96). -/
def Statement (i : Instr) : Prop := (encode i &&& i.mask).toNat = i.matchBits

/-- Format A: `t NNN`. -/
theorem formatA {w m : Word} {r t : Nat} (nnn : Addr) (ht : t < 16) (hm : m = 0xF000) (hr : r = 4096 * t)
    (hw : w = BitVec.ofNat 16 (r + nnn.toNat)) : (w &&& m).toNat = r := by
  subst hm hw hr
  have := nnn.isLt
  rw [BitVec.toNat_and, BitVec.toNat_ofNat, Nat.mod_eq_of_lt (by omega)]
  rw [show (0xF000 : Word).toNat = 0xF000 from rfl, mask_F000 t (by omega)]
  rw [show t &&& 15 = t from by simpa using Nat.and_two_pow_sub_one_of_lt_two_pow (n := 4) ht]

/-- Formats I and D: `t X NN`. -/
theorem formatI {w m : Word} {r t : Nat} (x : RegIdx) {n : Nat} (hn : n < 256) (ht : t < 16) (hm : m = 0xF000)
    (hr : r = 4096 * t) (hw : w = BitVec.ofNat 16 (r + (x.val * 256 + n))) : (w &&& m).toNat = r := by
  subst hm hw hr
  have := x.isLt
  rw [BitVec.toNat_and, BitVec.toNat_ofNat, Nat.mod_eq_of_lt (by omega)]
  rw [show (0xF000 : Word).toNat = 0xF000 from rfl, mask_F000 t (by omega)]
  rw [show t &&& 15 = t from by simpa using Nat.and_two_pow_sub_one_of_lt_two_pow (n := 4) ht]

/-- Format R: `t X Y s`. -/
theorem formatR {w m : Word} {r t n : Nat} (x y : RegIdx) (ht : t < 16) (hn : n < 16) (hm : m = 0xF00F)
    (hr : r = 4096 * t + n) (hw : w = BitVec.ofNat 16 (r + (x.val * 256 + y.val * 16))) : (w &&& m).toNat = r := by
  subst hm hw hr
  have := x.isLt; have := y.isLt
  rw [BitVec.toNat_and, BitVec.toNat_ofNat, Nat.mod_eq_of_lt (by omega)]
  rw [show 4096 * t + n + (x.val * 256 + y.val * 16) = 4096 * t + (16 * (x.val * 16 + y.val) + n) from by ring]
  rw [show (0xF00F : Word).toNat = 0xF00F from rfl, mask_F00F t (by omega) hn]
  rw [show t &&& 15 = t from by simpa using Nat.and_two_pow_sub_one_of_lt_two_pow (n := 4) ht,
    show n &&& 15 = n from by simpa using Nat.and_two_pow_sub_one_of_lt_two_pow (n := 4) hn]

/-- Format U: `t X ss`. -/
theorem formatU {w m : Word} {r t n : Nat} (x : RegIdx) (ht : t < 16) (hn : n < 256) (hm : m = 0xF0FF)
    (hr : r = 4096 * t + n) (hw : w = BitVec.ofNat 16 (r + x.val * 256)) : (w &&& m).toNat = r := by
  subst hm hw hr
  have := x.isLt
  rw [BitVec.toNat_and, BitVec.toNat_ofNat, Nat.mod_eq_of_lt (by omega)]
  rw [show 4096 * t + n + x.val * 256 = 4096 * t + (256 * x.val + n) from by ring]
  rw [show (0xF0FF : Word).toNat = 0xF0FF from rfl, mask_F0FF t (by omega) hn]
  rw [show t &&& 15 = t from by simpa using Nat.and_two_pow_sub_one_of_lt_two_pow (n := 4) ht,
    show n &&& 255 = n from by simpa using Nat.and_two_pow_sub_one_of_lt_two_pow (n := 8) hn]

theorem cls : Statement .cls := by unfold Statement; decide

theorem ret : Statement .ret := by unfold Statement; decide

theorem jmp (nnn : Addr) : Statement (.jmp nnn) := formatA (t := 1) nnn (by norm_num) rfl rfl rfl

theorem call (nnn : Addr) : Statement (.call nnn) := formatA (t := 2) nnn (by norm_num) rfl rfl rfl

theorem skeqi (x : RegIdx) (nn : Byte) : Statement (.skeqi x nn) :=
  formatI (t := 3) x nn.isLt (by norm_num) rfl rfl rfl

theorem sknei (x : RegIdx) (nn : Byte) : Statement (.sknei x nn) :=
  formatI (t := 4) x nn.isLt (by norm_num) rfl rfl rfl

theorem skeqr (x y : RegIdx) : Statement (.skeqr x y) :=
  formatR (t := 5) (n := 0) x y (by norm_num) (by norm_num) rfl rfl rfl

theorem ldi (x : RegIdx) (nn : Byte) : Statement (.ldi x nn) :=
  formatI (t := 6) x nn.isLt (by norm_num) rfl rfl rfl

theorem addi (x : RegIdx) (nn : Byte) : Statement (.addi x nn) :=
  formatI (t := 7) x nn.isLt (by norm_num) rfl rfl rfl

theorem mov (x y : RegIdx) : Statement (.mov x y) :=
  formatR (t := 8) (n := 0) x y (by norm_num) (by norm_num) rfl rfl rfl

theorem or (x y : RegIdx) : Statement (.or x y) :=
  formatR (t := 8) (n := 1) x y (by norm_num) (by norm_num) rfl rfl rfl

theorem and (x y : RegIdx) : Statement (.and x y) :=
  formatR (t := 8) (n := 2) x y (by norm_num) (by norm_num) rfl rfl rfl

theorem xor (x y : RegIdx) : Statement (.xor x y) :=
  formatR (t := 8) (n := 3) x y (by norm_num) (by norm_num) rfl rfl rfl

theorem add (x y : RegIdx) : Statement (.add x y) :=
  formatR (t := 8) (n := 4) x y (by norm_num) (by norm_num) rfl rfl rfl

theorem sub (x y : RegIdx) : Statement (.sub x y) :=
  formatR (t := 8) (n := 5) x y (by norm_num) (by norm_num) rfl rfl rfl

theorem shr (x y : RegIdx) : Statement (.shr x y) :=
  formatR (t := 8) (n := 6) x y (by norm_num) (by norm_num) rfl rfl rfl

theorem rsub (x y : RegIdx) : Statement (.rsub x y) :=
  formatR (t := 8) (n := 7) x y (by norm_num) (by norm_num) rfl rfl rfl

theorem shl (x y : RegIdx) : Statement (.shl x y) :=
  formatR (t := 8) (n := 14) x y (by norm_num) (by norm_num) rfl rfl rfl

theorem skner (x y : RegIdx) : Statement (.skner x y) :=
  formatR (t := 9) (n := 0) x y (by norm_num) (by norm_num) rfl rfl rfl

theorem ldidx (nnn : Addr) : Statement (.ldidx nnn) := formatA (t := 10) nnn (by norm_num) rfl rfl rfl

theorem jmpv0 (nnn : Addr) : Statement (.jmpv0 nnn) := formatA (t := 11) nnn (by norm_num) rfl rfl rfl

theorem rnd (x : RegIdx) (nn : Byte) : Statement (.rnd x nn) :=
  formatI (t := 12) x nn.isLt (by norm_num) rfl rfl rfl

theorem draw (x y : RegIdx) (n : Nibble) : Statement (.draw x y n) :=
  formatI (t := 13) (n := y.val * 16 + n.toNat) x (by omega) (by norm_num) rfl rfl
    (by simp [encode, Instr.matchBits, Instr.operandBits, Nat.add_assoc])

theorem skkd (x : RegIdx) : Statement (.skkd x) :=
  formatU (t := 14) (n := 0x9E) x (by norm_num) (by norm_num) rfl rfl rfl

theorem skku (x : RegIdx) : Statement (.skku x) :=
  formatU (t := 14) (n := 0xA1) x (by norm_num) (by norm_num) rfl rfl rfl

theorem rddt (x : RegIdx) : Statement (.rddt x) :=
  formatU (t := 15) (n := 0x07) x (by norm_num) (by norm_num) rfl rfl rfl

theorem waitk (x : RegIdx) : Statement (.waitk x) :=
  formatU (t := 15) (n := 0x0A) x (by norm_num) (by norm_num) rfl rfl rfl

theorem wrdt (x : RegIdx) : Statement (.wrdt x) :=
  formatU (t := 15) (n := 0x15) x (by norm_num) (by norm_num) rfl rfl rfl

theorem wrst (x : RegIdx) : Statement (.wrst x) :=
  formatU (t := 15) (n := 0x18) x (by norm_num) (by norm_num) rfl rfl rfl

theorem addidx (x : RegIdx) : Statement (.addidx x) :=
  formatU (t := 15) (n := 0x1E) x (by norm_num) (by norm_num) rfl rfl rfl

theorem font (x : RegIdx) : Statement (.font x) :=
  formatU (t := 15) (n := 0x29) x (by norm_num) (by norm_num) rfl rfl rfl

theorem bcd (x : RegIdx) : Statement (.bcd x) :=
  formatU (t := 15) (n := 0x33) x (by norm_num) (by norm_num) rfl rfl rfl

theorem dump (x : RegIdx) : Statement (.dump x) :=
  formatU (t := 15) (n := 0x55) x (by norm_num) (by norm_num) rfl rfl rfl

theorem load (x : RegIdx) : Statement (.load x) :=
  formatU (t := 15) (n := 0x65) x (by norm_num) (by norm_num) rfl rfl rfl

end TableRow

end Sys2Proof.Laws
end

