-- ==== Sys2Proof/Tests/Slice0.lean ====
section
/-! SUPPORT. Tests: what the well-formedness checks refuse, one decoding per instruction from a word written out from the
spec's encoding, at most two single steps per instruction whose expected values are the rows of spec/95_test_vectors.md named
in each comment (derived there from the rules, not from this model), and for every obligation with hypotheses a witness that
meets them, clause by clause at boundary values. -/

namespace Sys2Proof.Tests

open Sys2Proof Sys2Proof.Machine

/-! ### Ill-formed operands are refused (R92) -/

theorem test_wellformed_refuses_register_16 : regFits 16 = false ∧ regFits 15 = true := by decide
theorem test_wellformed_refuses_byte_256 : byteFits 256 = false ∧ byteFits 255 = true := by decide
theorem test_wellformed_refuses_address_4096 : addrFits 4096 = false ∧ addrFits 4095 = true := by decide
theorem test_wellformed_refuses_rows_16 : rowsFit 16 = false ∧ rowsFit 15 = true := by decide
theorem test_wellformed_accepts_boundary : (Instr.draw 15 15 15).wellFormed = true ∧ (Instr.call 0xFFF).wellFormed = true := by
  decide

/-! ### Decoding: words written out from R91, R93 and R96 -/

theorem test_decode_fixed : decodeWord 0x00E0 = .ok .cls ∧ decodeWord 0x00EE = .ok .ret := ⟨rfl, rfl⟩

theorem test_decode_address :
    decodeWord 0x1ABC = .ok (.jmp 0xABC) ∧ decodeWord 0x2FFF = .ok (.call 0xFFF) ∧
    decodeWord 0xA2F0 = .ok (.ldidx 0x2F0) ∧ decodeWord 0xB210 = .ok (.jmpv0 0x210) := ⟨rfl, rfl, rfl, rfl⟩

theorem test_decode_immediate :
    decodeWord 0x3A07 = .ok (.skeqi 10 0x07) ∧ decodeWord 0x4B80 = .ok (.sknei 11 0x80) ∧
    decodeWord 0x6A07 = .ok (.ldi 10 0x07) ∧ decodeWord 0x71FF = .ok (.addi 1 0xFF) ∧
    decodeWord 0xC10F = .ok (.rnd 1 0x0F) := ⟨rfl, rfl, rfl, rfl, rfl⟩

theorem test_decode_two_registers :
    decodeWord 0x5120 = .ok (.skeqr 1 2) ∧ decodeWord 0x9EF0 = .ok (.skner 14 15) ∧ decodeWord 0x8120 = .ok (.mov 1 2) ∧
    decodeWord 0x8121 = .ok (.or 1 2) ∧ decodeWord 0x8122 = .ok (.and 1 2) ∧ decodeWord 0x8123 = .ok (.xor 1 2) :=
  ⟨rfl, rfl, rfl, rfl, rfl, rfl⟩

theorem test_decode_flag_producers :
    decodeWord 0x8124 = .ok (.add 1 2) ∧ decodeWord 0x8125 = .ok (.sub 1 2) ∧ decodeWord 0x8326 = .ok (.shr 3 2) ∧
    decodeWord 0x8127 = .ok (.rsub 1 2) ∧ decodeWord 0x8ABE = .ok (.shl 10 11) := ⟨rfl, rfl, rfl, rfl, rfl⟩

theorem test_decode_draw : decodeWord 0xD125 = .ok (.draw 1 2 5) := rfl

theorem test_decode_keys_and_timers :
    decodeWord 0xE39E = .ok (.skkd 3) ∧ decodeWord 0xE3A1 = .ok (.skku 3) ∧ decodeWord 0xF207 = .ok (.rddt 2) ∧
    decodeWord 0xF50A = .ok (.waitk 5) ∧ decodeWord 0xF315 = .ok (.wrdt 3) ∧ decodeWord 0xF318 = .ok (.wrst 3) :=
  ⟨rfl, rfl, rfl, rfl, rfl, rfl⟩

theorem test_decode_index_and_memory :
    decodeWord 0xF11E = .ok (.addidx 1) ∧ decodeWord 0xF329 = .ok (.font 3) ∧ decodeWord 0xF433 = .ok (.bcd 4) ∧
    decodeWord 0xFF55 = .ok (.dump 15) ∧ decodeWord 0xF565 = .ok (.load 5) := ⟨rfl, rfl, rfl, rfl, rfl⟩

/-- V-ENC-8, V-ENC-9, V-ENC-11, V-ENC-14, V-ENC-16, V-ENC-18: words of R95. -/
theorem test_decode_refuses_unknown_words :
    decodeWord 0x00E1 = .error (.unknownOpcode 0x00E1) ∧ decodeWord 0x0000 = .error (.unknownOpcode 0x0000) ∧
    decodeWord 0x901F = .error (.unknownOpcode 0x901F) ∧ decodeWord 0xE000 = .error (.unknownOpcode 0xE000) ∧
    decodeWord 0xF0FF = .error (.unknownOpcode 0xF0FF) ∧ decodeWord 0x0123 = .error (.unknownOpcode 0x0123) :=
  ⟨rfl, rfl, rfl, rfl, rfl, rfl⟩

/-- V-ENC-1, V-ENC-2: the first byte is the high one, and bytes after the word are left over. -/
theorem test_decode_bytes :
    decode [0x6A, 0x07, 0x99] = .ok (.ldi 10 0x07, [0x99]) ∧ decode [0x07, 0x6A] = .error (.unknownOpcode 0x076A) ∧
    decode [0x6A] = .error (.truncated [0x6A]) := ⟨rfl, rfl, rfl⟩

theorem test_encode_bytes :
    encodeBytes (.draw 1 2 5) = [0xD1, 0x25] ∧ encodeBytes (.shl 10 11) = [0x8A, 0xBE] ∧
    encodeBytes (.load 5) = [0xF5, 0x65] := by decide

theorem test_decode_table_word :
    decodeTableWord 16 0x6A07 = some (.ldi 10 0x07) ∧ decodeTableWord 16 0x0000 = none := by decide

/-! ### Helpers -/

/-- The inputs of a cycle in which nothing is asked and nothing is reported. -/
def idle : CycleInputs := { tickTimers := false, keyDown := 0, lastKey := none, randByte := 0 }

/-- A cycle that ticks. -/
def ticking : CycleInputs := { idle with tickTimers := true }

/-- "Fresh": after `reset(ROM)`, with the idle inputs for the next cycle. -/
def fresh : State := { State.reset with inputs := [idle] }

/-- Registers set one after the other. -/
def regs (s : State) (l : List (RegIdx × Byte)) : State := l.foldl (fun s p => s.setReg p.1 p.2) s

/-- Bytes put into memory. -/
def poke (s : State) (a : Nat) (bytes : List Byte) : State := { s with mem := s.mem.writeList a bytes }

/-- Pixels turned on. -/
def lit (s : State) (l : List (Fin 64 × Fin 32)) : State :=
  { s with fb := l.foldl (fun fb p => fb.setPixel p.1 p.2 true) s.fb }

/-- Every listed pixel is on. -/
def lights (s : State) (l : List (Fin 64 × Fin 32)) : Bool := l.all fun p => s.fb.pixel p.1 p.2

/-- Is the outcome a next state? -/
def isNext (o : Host.Outcome State Fault Refusal) : Bool :=
  match o with
  | .next _ => true
  | _ => false

/-- The next state of an outcome, `State.reset` where there is none. -/
def result (o : Host.Outcome State Fault Refusal) : State :=
  match o with
  | .next t => t
  | _ => State.reset

theorem next_result {o : Host.Outcome State Fault Refusal} (h : isNext o = true) : o = .next (result o) := by
  cases o with
  | next t => rfl
  | fault r => cases h
  | refused r => cases h

/-- One step with the word `w` at `pc` answers a next state of which `p` holds. -/
def check (s : State) (w : Nat) (p : State → Bool) : Bool :=
  isNext (step (s.withFetchWord 16 w)) && p (result (step (s.withFetchWord 16 w)))

/-- The fatal `(cause, info)` was taken. -/
def took (cause : Fault) (info : Nat) (t : State) : Bool :=
  t.halted && t.faultCause == some cause && t.faultInfo == some info

/-! ### Control flow (spec/95_test_vectors.md section 2.2) -/

/-- V-CF-1. -/
theorem test_jmp : check fresh 0x1204 (fun t => t.pc == 0x0204) = true := by decide
/-- V-CF-3. -/
theorem test_jmp_top : check fresh 0x1FFF (fun t => t.pc == 0x0FFF && !t.halted) = true := by decide
/-- V-CF-4. -/
theorem test_call :
    check { fresh with pc := 0x0202 } 0x2300
      (fun t => t.stackAt 0 == 0x0204 && t.depth == 1 && t.pc == 0x0300) = true := by decide
/-- V-CF-5. -/
theorem test_call_full :
    check { fresh with pc := 0x0202, depth := 16 } 0x2300 (took .stackOverflow 0x0204) = true := by decide
/-- V-CF-7. -/
theorem test_ret :
    check { fresh with pc := 0x0300, depth := 1, stack := fresh.stack.set 0 0x0204 (by decide) } 0x00EE
      (fun t => t.pc == 0x0204 && t.depth == 0) = true := by decide
/-- V-CF-8. -/
theorem test_ret_empty : check fresh 0x00EE (took .stackUnderflow 0) = true := by decide
/-- V-CF-9. -/
theorem test_jmpv0 : check (regs fresh [(0, 0x04)]) 0xB210 (fun t => t.pc == 0x0214) = true := by decide
/-- V-CF-10. -/
theorem test_jmpv0_above_memory : check (regs fresh [(0, 0xFF)]) 0xBFFF (fun t => t.pc == 0x10FE && !t.halted) = true := by
  decide
/-- V-CF-11. -/
theorem test_skeqi_taken : check (regs fresh [(10, 0x07)]) 0x3A07 (fun t => t.pc == 0x0204) = true := by decide
/-- V-CF-12. -/
theorem test_skeqi_not_taken : check (regs fresh [(10, 0x08)]) 0x3A07 (fun t => t.pc == 0x0202) = true := by decide
/-- V-CF-13. -/
theorem test_sknei_not_taken : check (regs fresh [(10, 0x07)]) 0x4A07 (fun t => t.pc == 0x0202) = true := by decide
/-- V-CF-14. -/
theorem test_sknei_taken : check fresh 0x4A07 (fun t => t.pc == 0x0204) = true := by decide
/-- V-CF-15. -/
theorem test_skeqr_taken : check (regs fresh [(1, 0x33), (2, 0x33)]) 0x5120 (fun t => t.pc == 0x0204) = true := by decide
/-- V-CF-16. -/
theorem test_skeqr_not_taken : check (regs fresh [(1, 0x33), (2, 0x34)]) 0x5120 (fun t => t.pc == 0x0202) = true := by decide
/-- V-CF-18. -/
theorem test_skner_taken : check (regs fresh [(1, 0x01), (2, 0x02)]) 0x9120 (fun t => t.pc == 0x0204) = true := by decide
/-- V-CF-19. -/
theorem test_skner_not_taken : check (regs fresh [(1, 0x02), (2, 0x02)]) 0x9120 (fun t => t.pc == 0x0202) = true := by decide

/-! ### Load, arithmetic, logic (section 2.3) -/

/-- V-ALU-1, S1. -/
theorem test_ldi : check fresh 0x6A07 (fun t => t.reg 10 == 0x07 && t.pc == 0x0202) = true := by decide
/-- V-CF-21: an odd `pc`. -/
theorem test_ldi_odd_pc :
    check { fresh with pc := 0x0201 } 0x6A07 (fun t => t.reg 10 == 0x07 && t.pc == 0x0203 && !t.halted) = true := by decide
/-- V-ALU-2. -/
theorem test_addi_wraps :
    check (regs fresh [(1, 0xFE), (15, 0x55)]) 0x7105 (fun t => t.reg 1 == 0x03 && t.reg vf == 0x55) = true := by decide
/-- V-ALU-28. -/
theorem test_addi_vf : check (regs fresh [(15, 0xFF)]) 0x7F01 (fun t => t.reg vf == 0x00) = true := by decide
/-- V-ALU-20. -/
theorem test_mov : check (regs fresh [(2, 0x5A)]) 0x8120 (fun t => t.reg 1 == 0x5A && t.reg 2 == 0x5A) = true := by decide
/-- V-ALU-3. -/
theorem test_or :
    check (regs fresh [(1, 0xF0), (2, 0x0F), (15, 0x01)]) 0x8121 (fun t => t.reg 1 == 0xFF && t.reg vf == 0x01) = true := by
  decide
/-- V-ALU-4. -/
theorem test_and : check (regs fresh [(1, 0xF0), (2, 0x3C)]) 0x8122 (fun t => t.reg 1 == 0x30) = true := by decide
/-- V-ALU-5. -/
theorem test_xor : check (regs fresh [(1, 0xFF), (2, 0x0F)]) 0x8123 (fun t => t.reg 1 == 0xF0) = true := by decide
/-- V-ALU-7. -/
theorem test_add_no_carry :
    check (regs fresh [(1, 0x80), (2, 0x7F), (15, 0x01)]) 0x8124 (fun t => t.reg 1 == 0xFF && t.reg vf == 0x00) = true := by
  decide
/-- V-ALU-18: VF is the second operand. -/
theorem test_add_vf_operand :
    check (regs fresh [(1, 0xFF), (15, 0x01)]) 0x81F4 (fun t => t.reg 1 == 0x00 && t.reg vf == 0x01) = true := by decide
/-- V-ALU-9: equal operands (conflict C1). -/
theorem test_sub_equal :
    check (regs fresh [(1, 0x33), (2, 0x33), (15, 0x01)]) 0x8125 (fun t => t.reg 1 == 0x00 && t.reg vf == 0x00) = true := by
  decide
/-- V-ALU-8. -/
theorem test_sub_no_borrow :
    check (regs fresh [(1, 0x0A), (2, 0x03)]) 0x8125 (fun t => t.reg 1 == 0x07 && t.reg vf == 0x01) = true := by decide
/-- V-ALU-23: VY is not read. -/
theorem test_shr :
    check (regs fresh [(3, 0x04), (2, 0xFF)]) 0x8326
      (fun t => t.reg 3 == 0x02 && t.reg vf == 0x00 && t.reg 2 == 0xFF) = true := by decide
/-- V-ALU-11. -/
theorem test_shr_flag : check (regs fresh [(3, 0x05)]) 0x8306 (fun t => t.reg 3 == 0x02 && t.reg vf == 0x01) = true := by
  decide
/-- V-ALU-12. -/
theorem test_rsub : check (regs fresh [(1, 0x03), (2, 0x0A)]) 0x8127 (fun t => t.reg 1 == 0x07 && t.reg vf == 0x01) = true := by
  decide
/-- V-ALU-14. -/
theorem test_rsub_borrow :
    check (regs fresh [(1, 0x0A), (2, 0x03)]) 0x8127 (fun t => t.reg 1 == 0xF9 && t.reg vf == 0x00) = true := by decide
/-- V-ALU-15. -/
theorem test_shl : check (regs fresh [(3, 0x81)]) 0x830E (fun t => t.reg 3 == 0x02 && t.reg vf == 0x01) = true := by decide
/-- V-ALU-16. -/
theorem test_shl_no_flag :
    check (regs fresh [(3, 0x7F), (15, 0x01)]) 0x830E (fun t => t.reg 3 == 0xFE && t.reg vf == 0x00) = true := by decide
/-- V-ALU-17. -/
theorem test_rnd :
    check { fresh with inputs := [{ idle with randByte := 0xA7 }] } 0xC10F (fun t => t.reg 1 == 0x07) = true := by decide

/-! ### Index and memory (section 2.4) -/

/-- V-MEM-1, S2. -/
theorem test_ldidx : check fresh 0xA2F0 (fun t => t.i == 0x02F0 && t.pc == 0x0202) = true := by decide
/-- V-MEM-3. -/
theorem test_addidx_above_memory :
    check (regs { fresh with i := 0x0FFF } [(1, 0x01)]) 0xF11E
      (fun t => t.i == 0x1000 && t.reg vf == 0 && !t.halted) = true := by decide
/-- V-MEM-4. -/
theorem test_addidx_wraps : check (regs { fresh with i := 0xFFFF } [(1, 0x02)]) 0xF11E (fun t => t.i == 0x0001) = true := by
  decide
/-- V-MEM-5. -/
theorem test_font : check (regs fresh [(3, 0x0A)]) 0xF329 (fun t => t.i == 0x0032) = true := by decide
/-- V-MEM-7. -/
theorem test_font_range : check (regs fresh [(3, 0x10)]) 0xF329 (took .glyphOutOfRange 0x10) = true := by decide
/-- V-MEM-9. -/
theorem test_bcd_top :
    check (regs { fresh with i := 0x0FFD } [(4, 0xFF)]) 0xF433
      (fun t => t.mem.read 0xFFD == 2 && t.mem.read 0xFFE == 5 && t.mem.read 0xFFF == 5 && t.i == 0x0FFD) = true := by decide
/-- V-MEM-10. -/
theorem test_bcd_range : check { fresh with i := 0x0FFE } 0xF433 (took .memoryOutOfRange 0x1000) = true := by decide
/-- V-MEM-13. -/
theorem test_dump :
    check (poke (regs { fresh with i := 0x0400 } [(0, 0x11), (1, 0x22), (2, 0x33), (3, 0x44)]) 0x403 [0x99]) 0xF255
      (fun t => t.mem.read 0x400 == 0x11 && t.mem.read 0x402 == 0x33 && t.mem.read 0x403 == 0x99 && t.i == 0x0400) = true := by
  decide
/-- V-MEM-15. -/
theorem test_dump_range : check { fresh with i := 0x0FF1 } 0xFF55 (took .memoryOutOfRange 0x1000) = true := by decide
/-- V-MEM-17. -/
theorem test_load :
    check (poke (regs { fresh with i := 0x0400 } [(2, 0x77)]) 0x400 [0xAA, 0xBB, 0xCC]) 0xF165
      (fun t => t.reg 0 == 0xAA && t.reg 1 == 0xBB && t.reg 2 == 0x77 && t.i == 0x0400) = true := by decide
/-- V-MEM-20. -/
theorem test_load_range : check { fresh with i := 0x1000 } 0xF065 (took .memoryOutOfRange 0x1000) = true := by decide

/-! ### Display (section 2.5) -/

/-- V-DSP-1, S3. -/
theorem test_cls :
    check (lit { fresh with dirty := false } [(0, 0)]) 0x00E0
      (fun t => t.dirty && !t.fb.pixel 0 0 && !t.fb.pixel 63 31 && t.pc == 0x0202) = true := by decide
/-- V-DSP-8: glyph 5 wraps on both axes; all 14 pixels on, and a neighbour of each end of a row off. -/
theorem test_draw_wraps :
    check (regs { fresh with i := 0x0019 } [(1, 0x3E), (2, 0x1E)]) 0xD125
      (fun t => t.reg vf == 0 && t.dirty && lights t
        [(62, 30), (63, 30), (0, 30), (1, 30), (62, 31), (62, 0), (63, 0), (0, 0), (1, 0), (1, 1), (62, 2), (63, 2), (0, 2),
          (1, 2)] && !t.fb.pixel 61 30 && !t.fb.pixel 2 30 && !t.fb.pixel 63 31 && !t.fb.pixel 0 1 && !t.fb.pixel 62 3) = true := by decide
/-- V-DSP-12: both coordinates from VF, before it is overwritten. -/
theorem test_draw_from_vf :
    check (poke (regs { fresh with i := 0x0400 } [(15, 0x02)]) 0x400 [0x80]) 0xDFF1
      (fun t => t.fb.pixel 2 2 && !t.fb.pixel 0 0 && !t.fb.pixel 3 2 && t.reg vf == 0) = true := by decide

/-! ### Keys and timers (section 2.6) -/

/-- V-KT-1. -/
theorem test_skkd_down :
    check (regs { fresh with inputs := [{ idle with keyDown := 0x0020 }] } [(3, 0x05)]) 0xE39E
      (fun t => t.pc == 0x0204) = true := by decide
/-- V-KT-2: every other key is down. -/
theorem test_skkd_up :
    check (regs { fresh with inputs := [{ idle with keyDown := 0xFFDF }] } [(3, 0x05)]) 0xE39E
      (fun t => t.pc == 0x0202) = true := by decide
/-- V-KT-3. -/
theorem test_skku_up : check (regs fresh [(3, 0x05)]) 0xE3A1 (fun t => t.pc == 0x0204) = true := by decide
/-- V-KT-6. -/
theorem test_skku_range : check (regs fresh [(3, 0xFF)]) 0xE3A1 (took .keyOutOfRange 0xFF) = true := by decide
/-- V-KT-7. -/
theorem test_waitk_none :
    check (regs { fresh with dt := 0x05, inputs := [ticking] } [(5, 0x77)]) 0xF50A
      (fun t => t.pc == 0x0200 && t.reg 5 == 0x77 && t.dt == 0x04 && !t.dirty) = true := by decide
/-- V-KT-8. -/
theorem test_waitk_key :
    check { fresh with inputs := [{ idle with lastKey := some 0xB }] } 0xF50A
      (fun t => t.reg 5 == 0x0B && t.pc == 0x0202) = true := by decide
/-- V-KT-10. -/
theorem test_rddt_before_tick :
    check { fresh with dt := 0x3C, inputs := [ticking] } 0xF207 (fun t => t.reg 2 == 0x3C && t.dt == 0x3B) = true := by decide
/-- V-KT-12. -/
theorem test_wrdt_then_tick :
    check (regs { fresh with inputs := [ticking] } [(3, 0x0A)]) 0xF315 (fun t => t.dt == 0x09) = true := by decide
/-- V-KT-13. -/
theorem test_wrdt_zero_stays :
    check (regs { fresh with inputs := [ticking] } [(3, 0x00)]) 0xF315 (fun t => t.dt == 0x00) = true := by decide
/-- V-KT-14. -/
theorem test_wrst_then_tick :
    check (regs { fresh with inputs := [ticking] } [(3, 0x02)]) 0xF318
      (fun t => t.st == 0x01 && t.soundActive && t.dt == 0) = true := by decide

/-! ### The cycle, faults and reset (section 2.7) -/

/-- V-CY-1: an empty ROM. -/
theorem test_cycle_empty_rom : isNext (step fresh) = true ∧ took .unknownOpcode 0 (result (step fresh)) = true := by decide
/-- V-CY-5, whatever the 3585 bytes are. -/
theorem test_reset_long_rom (rom : List Byte) (h : rom.length = 3585) :
    took .memoryOutOfRange 0x1000 (fresh.resetWith rom) = true := by
  rw [State.resetWith, if_pos (by rw [h]; decide), h]
  rfl
/-- V-CY-6: fetching the last two bytes of memory. -/
theorem test_fetch_top :
    check { fresh with pc := 0x0FFE } 0x6A07 (fun t => t.reg 10 == 0x07 && t.pc == 0x1000 && !t.halted) = true := by decide
/-- V-CY-7. -/
theorem test_fetch_range :
    took .memoryOutOfRange 0x1000 (result (step { fresh with pc := 0x0FFF })) = true := by decide
/-- V-CY-8. -/
theorem test_first_cycle_clears_host_bits : check fresh 0x6A07 (fun t => !t.dirty && !t.initial) = true := by decide
/-- V-CY-10. -/
theorem test_reset_values :
    State.reset.initial = true ∧ State.reset.dirty = true ∧ State.reset.pc = 0x0200 ∧
    State.reset.mem.readList 0x000 5 = [0xF0, 0x90, 0x90, 0x90, 0xF0] ∧
    State.reset.mem.readList 0x04B 5 = [0xF0, 0x80, 0xF0, 0x80, 0x80] ∧ State.reset.mem.read 0x050 = 0 ∧
    State.reset.mem.read 0x1FF = 0 := by decide
/-- R68 and R282: a ROM's first bytes are the first word fetched. -/
theorem test_reset_loads_rom :
    (fresh.resetWith [0x6A, 0x07]).mem.readList 0x200 3 = [0x6A, 0x07, 0x00] ∧
    (fresh.resetWith [0x6A, 0x07]).pc = 0x0200 := by decide
/-- The canonical form: writing what an unlisted address reads as removes the entry. -/
theorem test_memory_write_back : ((Memory.write [] 0x300 7).write 0x300 0 = []) ∧ Memory.write [] 0x000 0xF0 = [] := by decide

/-! ### Witnesses: every obligation with hypotheses, clause by clause -/

/-- `s` with the word `w` at its `pc`. -/
def holding (s : State) (w : Nat) : State := s.withFetchWord 16 w

/-- The state a completed instruction leaves, from the fresh state. -/
def after (i : Instr) (s : State) : State := result (exec i s)

theorem test_witness_EncodeInvertsDecode : decodeWord 0x8ABE = .ok (.shl 10 11) := rfl

theorem test_witness_RowMatchesExactlyWhenDecoded :
    ((0x8ABE : Word) &&& (Instr.shl 0 0).mask).toNat = (Instr.shl 0 0).matchBits ∧
    ((0x8ABF : Word) &&& (Instr.shl 0 0).mask).toNat ≠ (Instr.shl 0 0).matchBits := by decide

theorem test_witness_UnknownWordsAreExactlyListed :
    IllegalWord 0x076A ∧ IllegalWord 0x5011 ∧ IllegalWord 0x8018 ∧ IllegalWord 0x901F ∧ IllegalWord 0xE09F ∧
    IllegalWord 0xF01F ∧ ¬ IllegalWord 0x00E0 := by simp [IllegalWord]

theorem test_witness_Fetches :
    (holding fresh 0x1200).Fetches (.jmp 0x200) ∧ (holding { fresh with pc := 0x0FFE } 0x6A07).Fetches (.ldi 10 0x07) :=
  ⟨⟨rfl, by decide, rfl⟩, ⟨rfl, by decide, rfl⟩⟩

/-- An instruction that completes, and one that takes its own fatal. -/
theorem test_witness_StepRunsDecodedInstruction :
    ∃ s t : State, s.Fetches (.ldi 10 0x07) ∧ exec (.ldi 10 0x07) { s with dirty := false } = .next t ∧ t.halted = false :=
  ⟨holding fresh 0x6A07, _, ⟨rfl, by decide, rfl⟩, rfl, rfl⟩
theorem test_witness_StepRunsDecodedInstruction_fatal :
    ∃ s t : State, s.Fetches .ret ∧ exec .ret { s with dirty := false } = .next t ∧ t.halted = true :=
  ⟨holding fresh 0x00EE, _, ⟨rfl, by decide, rfl⟩, next_result (by decide), by decide⟩

theorem test_witness_FetchIsBigEndianAndRangeChecked :
    ({ fresh with pc := 0x0FFE } : State).pc.toNat + 1 ≤ 4095 ∧
    4095 ≤ ({ fresh with pc := 0x0FFF } : State).pc.toNat := by decide

theorem test_witness_FetchAndDecodeFaultsAreFatal :
    fresh.halted = false ∧ ({ fresh with pc := 0x0FFF } : State).halted = false ∧
    4095 ≤ ({ fresh with pc := 0x0FFF } : State).pc.toNat ∧ fresh.pc.toNat ≤ 4094 ∧
    decodeWord (BitVec.ofNat 16 fresh.opAt) = .error (.unknownOpcode 0x0000) := ⟨rfl, rfl, by decide, by decide, rfl⟩

/-- Also for the frame statements: an instruction that completes, from the topmost `pc` that can be fetched. -/
theorem test_witness_NextPcFollowsTable :
    ∃ s t : State, s.pc.toNat ≤ 4094 ∧ exec (.call 0x300) s = .next t ∧ t.halted = false :=
  ⟨{ fresh with pc := 0x0FFE }, _, by decide, next_result (by decide), by decide⟩

theorem test_witness_TimersTickAfterExecute :
    ∃ s u : State, s.Fetches (.wrdt 3) ∧ exec (.wrdt 3) s.clearDirty = .next u ∧ u.halted = false ∧
      s.input.tickTimers = true ∧ s.input.tickTimers ≠ fresh.input.tickTimers :=
  ⟨holding { fresh with inputs := [ticking] } 0xF315, _, ⟨rfl, by decide, rfl⟩, rfl, rfl, rfl, by decide⟩

theorem test_witness_DirtyExactlyAfterClsOrDraw :
    ∃ s t : State, s.Fetches .cls ∧ step s = .next t ∧ t.halted = false :=
  ⟨holding fresh 0x00E0, _, ⟨rfl, by decide, rfl⟩, next_result (by decide), by decide⟩
theorem test_witness_DirtyExactlyAfterClsOrDraw_other :
    ∃ s t : State, s.Fetches (.ldi 10 0x07) ∧ step s = .next t ∧ t.halted = false :=
  ⟨holding fresh 0x6A07, _, ⟨rfl, by decide, rfl⟩, next_result (by decide), by decide⟩

/-- A halted state that a run reaches. -/
theorem test_witness_HaltedCoreIgnoresCycle : (result (step fresh)).halted = true := by decide

theorem test_witness_LatchStaysUntilReset :
    ∃ (s t : State), s.halted = true ∧ (∀ c ∈ [Command.cycle ticking, Command.clearDirty], ∀ rom, c ≠ .reset rom) ∧
      performAll [Command.cycle ticking, Command.clearDirty] s = .next t :=
  ⟨result (step fresh), _, by decide, by simp, next_result (by decide)⟩

/-- Each fatal an instruction can take, at the boundary, and no fatal just inside it. -/
theorem test_witness_InstructionsTakeOnlyTheirOwnFatal :
    ownFatal (.call 0x300) { fresh with depth := 16 } = some (.stackOverflow, 0x0202) ∧
    ownFatal (.call 0x300) { fresh with depth := 15 } = none ∧
    ownFatal .ret fresh = some (.stackUnderflow, 0) ∧ ownFatal .ret { fresh with depth := 1 } = none ∧
    ownFatal (.skkd 3) (regs fresh [(3, 16)]) = some (.keyOutOfRange, 16) ∧
    ownFatal (.skku 3) (regs fresh [(3, 15)]) = none ∧
    ownFatal (.font 3) (regs fresh [(3, 16)]) = some (.glyphOutOfRange, 16) ∧
    ownFatal (.draw 0 1 0) { fresh with i := 0x1000 } = some (.memoryOutOfRange, 0x1000) ∧
    ownFatal (.draw 0 1 0) { fresh with i := 0x0FFF } = none ∧
    ownFatal (.draw 0 1 2) { fresh with i := 0x0FFF } = some (.memoryOutOfRange, 0x1000) := by decide

theorem reset_inv : State.reset.Inv where
  mem_wf := Memory.wf_nil
  depth_le := by decide
  halted_latch := nofun
  running_latch := fun _ => ⟨rfl, rfl⟩
  pc_le := fun _ => by decide
  stack_le := fun _ k hk => by cases hk

theorem test_witness_StepKeepsInvariant : ∃ s t : State, s.Inv ∧ step s = .next t :=
  ⟨State.reset, _, reset_inv, next_result (by decide)⟩

theorem test_witness_EveryReachableStateMeetsInvariant :
    (∃ t, perform (.cycle ticking) State.reset = .next t) ∧ (∃ t, perform .clearDirty State.reset = .next t) ∧
    (∃ t, perform (.reset [0x6A, 0x07]) State.reset = .next t) ∧
    ∃ t, performAll [Command.reset [0x6A, 0x07], Command.cycle idle, Command.clearDirty] State.reset = .next t ∧
      t.halted = false :=
  ⟨⟨_, next_result (by decide)⟩, ⟨_, rfl⟩, ⟨_, rfl⟩, _, next_result (by decide), by decide⟩

theorem test_witness_OnlyNamedRegistersChange :
    ∃ t, exec (.add 1 2) fresh = .next t ∧ t.halted = false ∧ writesReg (.add 1 2) 2 = false :=
  ⟨_, rfl, rfl, rfl⟩

theorem test_witness_MemoryAndIndexHaveTheirWriters :
    ∃ t, exec (.load 3) fresh = .next t ∧ t.halted = false ∧ (∀ x, Instr.load 3 ≠ .bcd x ∧ Instr.load 3 ≠ .dump x) ∧
      ∀ x nnn, Instr.load 3 ≠ .ldidx nnn ∧ Instr.load 3 ≠ .addidx x ∧ Instr.load 3 ≠ .font x :=
  ⟨_, next_result (by decide), by decide, fun x => ⟨nofun, nofun⟩, fun x nnn => ⟨nofun, nofun, nofun⟩⟩

theorem test_witness_StackDisplayTimersHaveTheirWriters :
    ∃ t, exec (.mov 1 2) fresh = .next t ∧ t.halted = false ∧
      (∀ nnn, Instr.mov 1 2 ≠ .ret ∧ Instr.mov 1 2 ≠ .call nnn) ∧
      (∀ x y n, Instr.mov 1 2 ≠ .cls ∧ Instr.mov 1 2 ≠ .draw x y n) ∧ (∀ x, Instr.mov 1 2 ≠ .wrdt x) ∧
      ∀ x, Instr.mov 1 2 ≠ .wrst x :=
  ⟨_, rfl, rfl, fun _ => ⟨nofun, nofun⟩, fun _ _ _ => ⟨nofun, nofun⟩, nofun, nofun⟩

theorem test_witness_InputsReachOnlyTheirReaders :
    ∃ t, (∀ x nn, Instr.rddt 2 ≠ .skkd x ∧ Instr.rddt 2 ≠ .skku x ∧ Instr.rddt 2 ≠ .waitk x ∧ Instr.rddt 2 ≠ .rnd x nn) ∧
      exec (.rddt 2) fresh = .next t := ⟨_, fun _ _ => ⟨nofun, nofun, nofun, nofun⟩, rfl⟩

theorem test_witness_SoundTimerAndHostBitsAreNeverRead :
    ∃ t u, exec (.rddt 2) fresh = .next t ∧ exec (.rddt 2) { fresh with st := 7, dirty := false, initial := false } = .next u :=
  ⟨_, _, rfl, rfl⟩

theorem test_witness_SelfJumpOnlyTicks :
    (holding fresh 0x1200).Fetches (.jmp 0x200) ∧ (holding fresh 0x1200).pc.toNat = (0x200 : Addr).toNat :=
  ⟨⟨rfl, by decide, rfl⟩, by decide⟩

theorem test_witness_CallPushesOrOverflows :
    ({ fresh with depth := 15 } : State).depth < config.stackCapacity ∧
    ({ fresh with depth := 16 } : State).depth = config.stackCapacity := by decide

theorem test_witness_RetPopsOrUnderflows :
    0 < ({ fresh with depth := 1 } : State).depth ∧ ({ fresh with depth := 16 } : State).depth ≤ config.stackCapacity ∧
    fresh.depth = 0 := by decide

theorem test_witness_RetComesBackFromCall :
    ∃ s t u w : State, s.depth < config.stackCapacity ∧ exec (.call 0x300) s = .next t ∧ u.stack = t.stack ∧
      u.depth = t.depth ∧ exec .ret u = .next w :=
  ⟨fresh, after (.call 0x300) fresh, after (.call 0x300) fresh, _, by decide, next_result (by decide), rfl, rfl,
    next_result (by decide)⟩

theorem test_witness_AddSetsCarry : (0 : RegIdx) ≠ vf ∧ (14 : RegIdx) ≠ vf := by decide
theorem test_witness_SubtractSetsStrictFlag : (1 : RegIdx) ≠ vf := by decide
theorem test_witness_ShiftsMoveOneBitIntoFlag : (3 : RegIdx) ≠ vf := by decide

theorem test_witness_FlagProducersRunOnRegister15 : Instr.shl vf 3 ∈ flagProducers vf 3 ∧ Instr.sub vf vf ∈ flagProducers vf vf := by
  decide

theorem test_witness_FontPointsAtGlyphOrFaults :
    ((regs fresh [(3, 15)]).reg 3).toNat ≤ 15 ∧ 15 < ((regs fresh [(3, 16)]).reg 3).toNat := by decide

theorem test_witness_BcdStoresThreeDigits :
    fresh.mem.wf ∧ ({ fresh with i := 0x0FFD } : State).i.toNat + 2 ≤ 4095 ∧
    4095 < ({ fresh with i := 0x0FFE } : State).i.toNat + 2 := by
  exact ⟨Memory.wf_nil, by decide, by decide⟩

theorem test_witness_LoadReadsRegisters :
    ({ fresh with i := 0x0FFF } : State).i.toNat + (0 : RegIdx).val ≤ 4095 ∧
    4095 < ({ fresh with i := 0x1000 } : State).i.toNat + (0 : RegIdx).val := by decide
theorem test_witness_DumpStoresRegisters :
    fresh.mem.wf ∧ ({ fresh with i := 0x0FF0 } : State).i.toNat + (15 : RegIdx).val ≤ 4095 ∧
    4095 < ({ fresh with i := 0x0FF1 } : State).i.toNat + (15 : RegIdx).val := by
  exact ⟨Memory.wf_nil, by decide, by decide⟩

theorem test_witness_LoadBringsBackDump :
    ∃ s t u w : State, s.mem.wf ∧ s.i.toNat + (3 : RegIdx).val ≤ 4095 ∧ exec (.dump 3) s = .next t ∧ u.mem = t.mem ∧
      u.i = t.i ∧ exec (.load 3) u = .next w := by
  refine ⟨{ fresh with i := 0x0FFC }, after (.dump 3) { fresh with i := 0x0FFC },
    regs (after (.dump 3) { fresh with i := 0x0FFC }) [(0, 9)], _, Memory.wf_nil, by decide, next_result (by decide), rfl, rfl,
    next_result (by decide)⟩

/-- V0 and V1 planted right behind the DUMP, as in the spec's program PR5; the highest pair of a DUMP of all registers, at the
top of memory; and a BCD. -/
theorem test_witness_PlantedWordIsFetchedNext :
    ∃ s t : State, s.mem.wf ∧ s.Fetches (.dump 1) ∧ (0 : RegIdx).val + 1 ≤ (1 : RegIdx).val ∧
      s.i.toNat + (0 : RegIdx).val = s.pc.toNat + 2 ∧ s.i.toNat + (1 : RegIdx).val ≤ 4095 ∧ step s = .next t ∧
      decode [s.reg 0, s.reg 1] = .ok (.jmp 0x20A, []) := by
  refine ⟨holding (regs { fresh with i := 0x0202 } [(0, 0x12), (1, 0x0A)]) 0xF155, _, ?_, ⟨rfl, by decide, rfl⟩, by decide,
    by decide, by decide, next_result (by decide), rfl⟩
  exact Memory.writeList_wf Memory.wf_nil (by decide)
theorem test_witness_PlantedWordIsFetchedNext_top :
    ∃ s t : State, s.mem.wf ∧ s.Fetches (.dump 15) ∧ (14 : RegIdx).val + 1 ≤ (15 : RegIdx).val ∧
      s.i.toNat + (14 : RegIdx).val = s.pc.toNat + 2 ∧ s.i.toNat + (15 : RegIdx).val ≤ 4095 ∧ step s = .next t := by
  refine ⟨holding { fresh with i := 0x0FF0, pc := 0x0FFC } 0xFF55, _, ?_, ⟨rfl, by decide, rfl⟩, by decide, by decide,
    by decide, next_result (by decide)⟩
  exact Memory.writeList_wf Memory.wf_nil (by decide)
theorem test_witness_PlantedWordIsFetchedNext_bcd :
    ∃ s t : State, s.mem.wf ∧ s.Fetches (.bcd 4) ∧ s.i.toNat = s.pc.toNat + 2 ∧ s.i.toNat + 2 ≤ 4095 ∧ step s = .next t := by
  refine ⟨holding { fresh with i := 0x0FFD, pc := 0x0FFB } 0xF433, _, ?_, ⟨rfl, by decide, rfl⟩, by decide, by decide,
    next_result (by decide)⟩
  exact Memory.writeList_wf Memory.wf_nil (by decide)

theorem test_witness_DrawXorsSpriteAndReportsCollision :
    SpriteInRange 0x0FFF 1 ∧ SpriteInRange 0x0FFF 0 ∧ ¬ SpriteInRange 0x0FFF 2 ∧ ¬ SpriteInRange 0x1000 0 := by
  unfold SpriteInRange; decide

/-- A state in which the first pixel of the glyph of 0 is lit (a collision), and the fresh one (none). -/
theorem test_witness_DrawXorsSpriteAndReportsCollision_clauses :
    (∃ cx cy, (lit fresh [(0, 0)]).fb.pixel cx cy = true ∧ SpriteCovers fresh.mem 0 5 0 0 cx cy) ∧
    ¬ ∃ cx cy, fresh.fb.pixel cx cy = true ∧ SpriteCovers fresh.mem 0 5 0 0 cx cy :=
  ⟨⟨0, 0, by decide, 0, 0, by decide, by decide, by decide, by decide, by decide⟩,
    fun ⟨cx, cy, h, _⟩ => Bool.false_ne_true ((Framebuffer.pixel_blank cx cy).symm.trans h)⟩

theorem test_witness_DrawOutsideMemoryFaults :
    (2 : Nibble) ≠ 0 ∧ 4095 < ({ fresh with i := 0x0FFF } : State).i.toNat + (2 : Nibble).toNat - 1 ∧
    4095 < ({ fresh with i := 0x1000 } : State).i.toNat ∧ ({ fresh with i := 0x0FFF } : State).i.toNat ≤ 4095 := by decide

theorem test_witness_DrawingTwiceRestoresDisplay :
    ∃ s t u : State, (0 : RegIdx) ≠ vf ∧ (1 : RegIdx) ≠ vf ∧ SpriteInRange s.i.toNat (1 : Nibble).toNat ∧
      exec (.draw 0 1 1) s = .next t ∧ exec (.draw 0 1 1) t = .next u :=
  ⟨{ fresh with i := 0x0FFF }, after (.draw 0 1 1) { fresh with i := 0x0FFF }, _, by decide, by decide,
    by unfold SpriteInRange; decide, next_result (by decide), next_result (by decide)⟩

theorem test_witness_KeySkipsFollowKeypad :
    ((regs fresh [(3, 15)]).reg 3).toNat ≤ 15 ∧ 15 < ((regs fresh [(3, 16)]).reg 3).toNat := by decide

theorem test_witness_WaitKeyTakesKeyOrStays :
    ({ fresh with inputs := [{ idle with lastKey := some 15 }] } : State).input.lastKey = some 15 ∧
    fresh.input.lastKey = none := ⟨rfl, rfl⟩

theorem test_witness_TimerWriteThenTickInOneCycle :
    (holding { fresh with inputs := [ticking] } 0xF315).Fetches (.wrdt 3) ∧
    (holding { fresh with inputs := [ticking] } 0xF318).Fetches (.wrst 3) :=
  ⟨⟨rfl, by decide, rfl⟩, ⟨rfl, by decide, rfl⟩⟩

/-- The longest ROM that fits, and the shortest that does not. -/
theorem test_witness_ResetLeavesStatedValues : (List.replicate 3584 (0xFF : Byte)).length ≤ 3584 := by
  rw [List.length_replicate]
theorem test_witness_ResetLeavesChosenValues : ([] : List Byte).length ≤ 3584 := by decide
theorem test_witness_LongRomHaltsAtReset : 3584 < (List.replicate 3585 (0xFF : Byte)).length := by
  rw [List.length_replicate]; decide

theorem test_witness_CycleCommandPresentsItsInputs :
    (∃ t, step { holding fresh 0x6A07 with inputs := ticking :: (holding fresh 0x6A07).inputs } = .next t) ∧
    ∃ t, perform (.cycle ticking) (holding fresh 0x6A07) = .next t :=
  ⟨⟨_, next_result (by decide)⟩, _, next_result (by decide)⟩

end Sys2Proof.Tests
end

section
/-! ### The projection of the display (spec/10_state.md R35) -/

namespace Sys2Proof.Machine

/-- The projection is the framebuffer, coloured pixel by pixel, with its rows laid end to end (R35). -/
theorem State.project_eq_flatten {Colour : Type} (s : State) (on off : Colour) :
    s.project on off = (s.fb.flatten.map fun p => if p then on else off).toList := by
  rw [Vector.map_flatten]
  simp [State.project, Vector.flatten, Vector.toList, Function.comp_def]

theorem State.length_project {Colour : Type} (s : State) (on off : Colour) :
    (s.project on off).length = 2048 := by
  rw [State.project_eq_flatten, Vector.length_toList]

/-- Row-major order: entry `y*64 + x` of the rows laid end to end is pixel `(x, y)`. -/
theorem Framebuffer.getElem_flatten (fb : Framebuffer) (x : Fin 64) (y : Fin 32) :
    fb.flatten[y.val * 64 + x.val] = fb.pixel x y := by
  have hrow : (y.val * 64 + x.val) / 64 = y.val := by omega
  have hcol : (y.val * 64 + x.val) % 64 = x.val := by omega
  rw [Vector.getElem_flatten]
  simp [Framebuffer.pixel, hrow, hcol]

theorem State.getElem?_project {Colour : Type} (s : State) (on off : Colour) (x : Fin 64) (y : Fin 32) :
    (s.project on off)[y.val * 64 + x.val]? = some (if s.fb.pixel x y = true then on else off) := by
  have hlt : y.val * 64 + x.val < 32 * 64 := by omega
  rw [State.project_eq_flatten, Vector.getElem?_toList, Vector.getElem?_eq_getElem hlt,
    Vector.getElem_map, Framebuffer.getElem_flatten]

/-- Settles O51, by reading the projection as the flattened framebuffer. -/
theorem projectionIsRowMajor : Obligations.ProjectionIsRowMajor := by
  unfold Obligations.ProjectionIsRowMajor
  intro s on off
  exact ⟨s.length_project on off, s.getElem?_project on off⟩

end Sys2Proof.Machine
end

section
/-! ### The bytes of a fetch (R66, R68) -/

namespace Sys2Proof.Machine

/-- Settles O7: of the two outcomes of a fetch, the value of `pc` leaves one. -/
theorem fetchIsBigEndianAndRangeChecked : Obligations.FetchIsBigEndianAndRangeChecked := by
  unfold Obligations.FetchIsBigEndianAndRangeChecked
  intro s
  obtain ⟨hin, hok⟩ | ⟨hout, hfault⟩ := s.fetch_cases
  · exact ⟨fun _ => hok, fun hout => by omega⟩
  · exact ⟨fun hin => by omega, fun _ => hfault⟩

end Sys2Proof.Machine
end

section
/-! ### The `clear_dirty()` command (R128) -/

namespace Sys2Proof.Machine

@[simp] theorem perform_clearDirty (s : State) : perform .clearDirty s = .next s.clearDirty := rfl

/-- Settles O59: the command does not look at the latch, so the halted case needs no split. -/
theorem clearDirtyChangesOnlyDirty : Obligations.ClearDirtyChangesOnlyDirty := by
  unfold Obligations.ClearDirtyChangesOnlyDirty
  intro s
  rw [perform_clearDirty, State.clearDirty]

end Sys2Proof.Machine
end

section
/-! ### Jump and register skips (spec/41_control_flow.md R141, R144 to R147) -/

namespace Sys2Proof.Machine

@[simp] theorem exec_jmp (nnn : Addr) (s : State) : exec (.jmp nnn) s = .next (s.jumpTo (addrWord nnn)) := rfl

@[simp] theorem exec_skeqi (x : RegIdx) (nn : Byte) (s : State) :
    exec (.skeqi x nn) s = .next (s.skipIf (s.reg x == nn)) := rfl

@[simp] theorem exec_sknei (x : RegIdx) (nn : Byte) (s : State) :
    exec (.sknei x nn) s = .next (s.skipIf (s.reg x != nn)) := rfl

@[simp] theorem exec_skeqr (x y : RegIdx) (s : State) :
    exec (.skeqr x y) s = .next (s.skipIf (s.reg x == s.reg y)) := rfl

@[simp] theorem exec_skner (x y : RegIdx) (s : State) :
    exec (.skner x y) s = .next (s.skipIf (s.reg x != s.reg y)) := rfl

/-- The zero-extension that a jump target gets keeps the number of the address. -/
theorem addrWord_eq_ofNat (nnn : Addr) : addrWord nnn = BitVec.ofNat 16 nnn.toNat :=
  (BitVec.ofNat_toNat 16 nnn).symm

/-- A skip whose tested bit stands for the condition `p`, as a whole next state. -/
theorem State.skipIf_eq_of_iff {c : Bool} {p : Prop} [Decidable p] (s : State) (h : c = true ↔ p) :
    s.skipIf c = { s with pc := if p then s.pc + 4 else s.pc + 2 } := by
  by_cases hp : p
  · rw [if_pos hp, h.mpr hp]
    rfl
  · rw [if_neg hp, Bool.eq_false_iff.mpr (mt h.mp hp)]
    rfl

/-- Settles O24: JMP is `State.jumpTo`, which writes `pc` alone, with the address zero-extended. -/
theorem jumpSetsPc : Obligations.JumpSetsPc := by
  unfold Obligations.JumpSetsPc
  intro nnn s
  rw [exec_jmp, addrWord_eq_ofNat, State.jumpTo]

/-- Settles O30: each skip tests with `==` or `!=` exactly what its condition says. -/
theorem skipsCompareEquality : Obligations.SkipsCompareEquality := by
  unfold Obligations.SkipsCompareEquality
  intro x y nn s
  refine ⟨?skeqi, ?sknei, ?skeqr, ?skner⟩
  case skeqi => rw [exec_skeqi, s.skipIf_eq_of_iff beq_iff_eq]
  case sknei => rw [exec_sknei, s.skipIf_eq_of_iff bne_iff_ne]
  case skeqr => rw [exec_skeqr, s.skipIf_eq_of_iff beq_iff_eq]
  case skner => rw [exec_skner, s.skipIf_eq_of_iff bne_iff_ne]

end Sys2Proof.Machine
end

section
/-! ### Loads, arithmetic and logic (spec/42_alu.md R160 to R165, R168, R171, R173, R174) -/

namespace Sys2Proof.Machine

@[simp] theorem exec_ldi (x : RegIdx) (nn : Byte) (s : State) :
    exec (.ldi x nn) s = .next (s.setReg x nn).advance := rfl

@[simp] theorem exec_addi (x : RegIdx) (nn : Byte) (s : State) :
    exec (.addi x nn) s = .next (s.setReg x (s.reg x + nn)).advance := rfl

@[simp] theorem exec_mov (x y : RegIdx) (s : State) :
    exec (.mov x y) s = .next (s.setReg x (s.reg y)).advance := rfl

@[simp] theorem exec_or (x y : RegIdx) (s : State) :
    exec (.or x y) s = .next (s.setReg x (s.reg x ||| s.reg y)).advance := rfl

@[simp] theorem exec_and (x y : RegIdx) (s : State) :
    exec (.and x y) s = .next (s.setReg x (s.reg x &&& s.reg y)).advance := rfl

@[simp] theorem exec_xor (x y : RegIdx) (s : State) :
    exec (.xor x y) s = .next (s.setReg x (s.reg x ^^^ s.reg y)).advance := rfl

@[simp] theorem exec_shr (x y : RegIdx) (s : State) :
    exec (.shr x y) s = .next (s.setResultAndFlag x (s.reg x >>> 1) (lowBit (s.reg x))).advance := rfl

@[simp] theorem exec_shl (x y : RegIdx) (s : State) :
    exec (.shl x y) s = .next (s.setResultAndFlag x (s.reg x <<< 1) (topBit (s.reg x))).advance := rfl

@[simp] theorem exec_rnd (x : RegIdx) (nn : Byte) (s : State) :
    exec (.rnd x nn) s = .next (s.setReg x (s.input.randByte &&& nn)).advance := rfl

/-- An instruction whose meaning is one register write followed by the advance of `pc` writes that register only. -/
theorem writesOnly_of_setReg {i : Instr} {s : State} {x : RegIdx} {b : Byte}
    (h : exec i s = .next (s.setReg x b).advance) : WritesOnly i s x b :=
  ⟨(s.setReg x b).v, h, s.reg_setReg_same x b, fun _ hr => s.reg_setReg_ne hr b⟩

/-- With X other than 15, an instruction whose meaning is the write of a result and a flag, followed by the advance of `pc`,
writes VX and VF only. -/
theorem writesWithFlag_of_setResultAndFlag {i : Instr} {s : State} {x : RegIdx} {b : Byte} {c : Bool} (hx : x ≠ vf)
    (h : exec i s = .next (s.setResultAndFlag x b c).advance) : WritesWithFlag i s x b (flagByte c) := by
  have hreg := s.reg_setResultAndFlag hx b c
  refine ⟨(s.setResultAndFlag x b c).v, ?next, ?result, ?flag, ?frame⟩
  case next => rw [h, s.setResultAndFlag_eq]; rfl
  case result => exact (hreg x).trans (by rw [if_neg hx, if_pos rfl])
  case flag => exact (hreg vf).trans (if_pos rfl)
  case frame => exact fun r hrx hrf => (hreg r).trans (by rw [if_neg hrf, if_neg hrx]; rfl)

/-- A byte is determined by its number. -/
theorem byte_eq_ofNat_of_toNat {b : Byte} {n : Nat} (h : b.toNat = n) : b = BitVec.ofNat 8 n := by
  rw [← h, BitVec.ofNat_toNat, BitVec.setWidth_eq]

theorem flagByte_eq_ofNat_toNat (c : Bool) : flagByte c = BitVec.ofNat 8 c.toNat := by
  cases c <;> rfl

/-- The flag that holds bit `k` of a byte is that binary digit of its number. -/
theorem flagByte_getLsbD (b : Byte) (k : Nat) :
    flagByte (b.getLsbD k) = BitVec.ofNat 8 (b.toNat / 2 ^ k % 2) := by
  rw [flagByte_eq_ofNat_toNat, BitVec.getLsbD, Nat.toNat_testBit]

theorem flagByte_lowBit (b : Byte) : flagByte (lowBit b) = BitVec.ofNat 8 (b.toNat % 2) := by
  rw [lowBit, flagByte_getLsbD, pow_zero, Nat.div_one]

theorem flagByte_topBit (b : Byte) : flagByte (topBit b) = BitVec.ofNat 8 (b.toNat / 128) := by
  have hdigit : b.toNat / 2 ^ 7 % 2 = b.toNat / 128 := by have := b.isLt; omega
  rw [topBit, flagByte_getLsbD, hdigit]

/-- Settles O31: LDI is one register write. -/
theorem loadImmediateSetsRegister : Obligations.LoadImmediateSetsRegister := by
  unfold Obligations.LoadImmediateSetsRegister
  intro x nn s
  exact writesOnly_of_setReg (exec_ldi x nn s)

/-- Settles O32: ADDI is one register write, of the sum of two bytes, which wraps at 256. -/
theorem addImmediateWrapsWithoutFlag : Obligations.AddImmediateWrapsWithoutFlag := by
  unfold Obligations.AddImmediateWrapsWithoutFlag
  intro x nn s
  rw [← byte_eq_ofNat_of_toNat (BitVec.toNat_add (s.reg x) nn)]
  exact writesOnly_of_setReg (exec_addi x nn s)

/-- Settles O33: each of the four is one register write, also for X = 15, so VF is written only as VX. -/
theorem moveAndLogicLeaveFlag : Obligations.MoveAndLogicLeaveFlag := by
  unfold Obligations.MoveAndLogicLeaveFlag
  intro x y s
  rw [← byte_eq_ofNat_of_toNat (BitVec.toNat_or (s.reg x) (s.reg y)),
    ← byte_eq_ofNat_of_toNat (BitVec.toNat_and (s.reg x) (s.reg y)),
    ← byte_eq_ofNat_of_toNat (BitVec.toNat_xor (s.reg x) (s.reg y))]
  exact ⟨writesOnly_of_setReg (exec_mov x y s), writesOnly_of_setReg (exec_or x y s),
    writesOnly_of_setReg (exec_and x y s), writesOnly_of_setReg (exec_xor x y s)⟩

/-- Settles O36: the result is half or twice the number of VX, and the bit shifted out is its lowest or highest binary
digit. -/
theorem shiftsMoveOneBitIntoFlag : Obligations.ShiftsMoveOneBitIntoFlag := by
  unfold Obligations.ShiftsMoveOneBitIntoFlag
  intro x y s hx
  have hhalf : (s.reg x >>> 1).toNat = (s.reg x).toNat / 2 := by
    rw [BitVec.toNat_ushiftRight, Nat.shiftRight_eq_div_pow, pow_one]
  have hdouble : (s.reg x <<< 1).toNat = (s.reg x).toNat * 2 % 256 := by
    rw [BitVec.toNat_shiftLeft, Nat.shiftLeft_eq, pow_one]
  rw [← byte_eq_ofNat_of_toNat hhalf, ← byte_eq_ofNat_of_toNat hdouble, ← flagByte_lowBit, ← flagByte_topBit]
  exact ⟨writesWithFlag_of_setResultAndFlag hx (exec_shr x y s), writesWithFlag_of_setResultAndFlag hx (exec_shl x y s)⟩

/-- Settles O38: RND is one register write, of a byte whose bits are all in the mask. -/
theorem randomByteIsMasked : Obligations.RandomByteIsMasked := by
  unfold Obligations.RandomByteIsMasked
  intro x nn s
  have hmask : (s.input.randByte &&& nn) &&& ~~~nn = 0 := by
    rw [BitVec.and_assoc, BitVec.and_not_self]
    exact BitVec.and_zero
  exact ⟨writesOnly_of_setReg (exec_rnd x nn s), hmask⟩

end Sys2Proof.Machine
end

section
/-! ### The index register (spec/43_index_memory.md R190, R191) -/

namespace Sys2Proof.Machine

@[simp] theorem exec_ldidx (nnn : Addr) (s : State) :
    exec (.ldidx nnn) s = .next (s.setIndex (addrWord nnn)).advance := rfl

@[simp] theorem exec_addidx (x : RegIdx) (s : State) :
    exec (.addidx x) s = .next (s.setIndex (s.i + byteWord (s.reg x))).advance := rfl

@[simp] theorem toNat_addrWord (nnn : Addr) : (addrWord nnn).toNat = nnn.toNat :=
  BitVec.toNat_setWidth_of_le (by decide)

@[simp] theorem toNat_byteWord (b : Byte) : (byteWord b).toNat = b.toNat :=
  BitVec.toNat_setWidth_of_le (by decide)

/-- Settles O39: LDIDX is one write of `I`, of the address zero-extended. -/
theorem setIndexLoadsAddress : Obligations.SetIndexLoadsAddress := by
  unfold Obligations.SetIndexLoadsAddress
  intro nnn s
  exact ⟨addrWord nnn, exec_ldidx nnn s, toNat_addrWord nnn⟩

/-- Settles O40: ADDIDX is one write of `I`, of a sum of two words, which wraps at 65536. -/
theorem addToIndexWrapsAt65536 : Obligations.AddToIndexWrapsAt65536 := by
  unfold Obligations.AddToIndexWrapsAt65536
  intro x s
  have hsum : (s.i + byteWord (s.reg x)).toNat = (s.i.toNat + (s.reg x).toNat) % 65536 := by
    rw [BitVec.toNat_add, toNat_byteWord]
  exact ⟨s.i + byteWord (s.reg x), exec_addidx x s, hsum⟩

end Sys2Proof.Machine
end

section
/-! ### Clearing the display (spec/44_display.md R210) -/

namespace Sys2Proof.Machine

/-- CLS does not look at the framebuffer: it replaces it by the blank one and sets `dirty` (R210). -/
@[simp] theorem exec_cls (s : State) :
    exec .cls s = .next { s with fb := Framebuffer.blank, dirty := true }.advance := rfl

/-- Settles O47: the framebuffer after CLS is the blank one, and every pixel of that is off. -/
theorem clearScreenBlanksDisplay : Obligations.ClearScreenBlanksDisplay := by
  unfold Obligations.ClearScreenBlanksDisplay
  intro s
  exact ⟨Framebuffer.blank, exec_cls s, Framebuffer.pixel_blank⟩

end Sys2Proof.Machine
end

section
/-! ### The `reset(ROM)` command (spec/70_reset_and_hazards.md R281, R282) -/

namespace Sys2Proof.Machine

@[simp] theorem perform_reset (rom : List Byte) (s : State) : perform (.reset rom) s = .next (s.resetWith rom) := rfl

/-- With a ROM that fits, reset is the fixed reset state with the ROM written at 0x200; of the state before it only the
model's own record of the host's side goes on. -/
theorem State.resetWith_of_fits (s : State) {rom : List Byte} (h : rom.length ≤ 3584) :
    s.resetWith rom = { State.reset with
      mem := State.reset.mem.writeList 0x200 rom, inputs := s.inputs, draws := s.draws } :=
  if_neg (Nat.not_lt.mpr h)

/-- The default parameters meet the constraints of R7. -/
theorem config_ok : config.Ok := ⟨by decide, by decide, rfl⟩

/-- The font ends at or below 0x200, where the ROM begins (R7). -/
theorem fontBase_add_lt {k : Nat} (hk : k < 80) : config.fontBase + k < 0x200 := by
  obtain ⟨-, hbase, -⟩ := config_ok
  omega

/-- Memory that lists nothing holds the font at `FONT_BASE`. -/
theorem Memory.unlisted_fontBase_add (k : Nat) :
    Memory.unlisted (config.fontBase + k) = config.fontData.getD k 0 := by
  rw [Memory.unlisted, if_pos (Nat.le_add_right _ k), Nat.add_sub_cancel_left]

/-- A cell of memory after a reset with a ROM that fits: the ROM's byte in its range, the unlisted byte outside. -/
theorem State.read_mem_resetWith (s : State) {rom : List Byte} (h : rom.length ≤ 3584) (a : Nat) :
    (s.resetWith rom).mem.read a =
      if 0x200 ≤ a ∧ a < 0x200 + rom.length then rom.getD (a - 0x200) 0 else Memory.unlisted a := by
  rw [s.resetWith_of_fits h]
  exact Memory.read_writeList Memory.wf_nil (by omega) a

/-- Settles O56: `pc`, display and `initial` are those of the fixed reset state, and writing the ROM leaves the font as it
was, because the font lies below 0x200. -/
theorem resetLeavesStatedValues : Obligations.ResetLeavesStatedValues := by
  unfold Obligations.ResetLeavesStatedValues
  intro s rom hfits
  refine ⟨s.resetWith rom, perform_reset rom s, ?pc, ?display, ?initial, ?font, ?rom⟩
  case pc => rw [s.resetWith_of_fits hfits]; rfl
  case display =>
    rw [s.resetWith_of_fits hfits]
    exact Framebuffer.pixel_blank
  case initial => rw [s.resetWith_of_fits hfits]; rfl
  case font =>
    intro k hk
    have hbelow := fontBase_add_lt hk
    rw [s.read_mem_resetWith hfits, if_neg (by omega), Memory.unlisted_fontBase_add]
  case rom =>
    intro k hk
    rw [s.read_mem_resetWith hfits, if_pos (by omega), Nat.add_sub_cancel_left]

end Sys2Proof.Machine
end

section
/-! ### Encoding and decoding (spec/30_encoding.md R91 to R96) -/

namespace Sys2Proof

open Machine

/-! The fields cover the word: no bit of it is outside them (R91). -/

theorem toNat_eq_tnnn (op : Word) : op.toNat = 4096 * fieldT op + (fieldNNN op).toNat := by
  simp only [fieldT, fieldNNN, BitVec.toNat_ofNat]
  omega

theorem toNat_eq_txnn (op : Word) : op.toNat = 4096 * fieldT op + ((fieldX op).val * 256 + (fieldNN op).toNat) := by
  simp only [fieldT, fieldX, fieldNN, BitVec.toNat_ofNat, Fin.val_ofNat]
  omega

theorem toNat_eq_txyn (op : Word) :
    op.toNat = 4096 * fieldT op + ((fieldX op).val * 256 + (fieldY op).val * 16 + (fieldN op).toNat) := by
  simp only [fieldT, fieldX, fieldY, fieldN, BitVec.toNat_ofNat, Fin.val_ofNat]
  omega

theorem fieldT_lt (op : Word) : fieldT op < 16 := Nat.div_lt_of_lt_mul op.isLt

/-! The fields of an encoded instruction. -/

theorem toNat_encode (i : Instr) : (encode i).toNat = i.matchBits + i.operandBits := by
  have hlt : i.matchBits + i.operandBits < 2 ^ 16 := by
    cases i <;> simp only [Instr.matchBits, Instr.operandBits] <;> omega
  rw [encode, BitVec.toNat_ofNat, Nat.mod_eq_of_lt hlt]

section
variable {op : Word} {i : Instr} (h : op.toNat = i.matchBits + i.operandBits)
include h

/-- The operands leave the family selector to the fixed bits of the row. -/
theorem fieldT_of_toNat : fieldT op = i.matchBits / 4096 := by
  rw [fieldT, h]
  cases i <;> simp only [Instr.matchBits, Instr.operandBits] <;> omega

/-- Without operand bits in N, the row says what N is. -/
theorem toNat_fieldN_of_toNat (ho : i.operandBits % 16 = 0) : (fieldN op).toNat = i.matchBits % 16 := by
  rw [fieldN, h, BitVec.toNat_ofNat]
  omega

/-- Without operand bits in NN, the row says what NN is. -/
theorem toNat_fieldNN_of_toNat (ho : i.operandBits % 256 = 0) : (fieldNN op).toNat = i.matchBits % 256 := by
  rw [fieldNN, h, BitVec.toNat_ofNat]
  omega

end

/-- The word that carries the operands of an instruction in their fields decodes to it, format by format (R93). -/
theorem decodeWord_of_toNat {op : Word} {i : Instr} (h : op.toNat = i.matchBits + i.operandBits) :
    decodeWord op = .ok i := by
  have hT := fieldT_of_toNat h
  have htnnn := toNat_eq_tnnn op
  have htxnn := toNat_eq_txnn op
  have htxyn := toNat_eq_txyn op
  cases i with
  | cls => rw [show op = encode .cls from BitVec.eq_of_toNat_eq h]; rfl
  | ret => rw [show op = encode .ret from BitVec.eq_of_toNat_eq h]; rfl
  | jmp nnn | call nnn | ldidx nnn | jmpv0 nnn =>
    simp only [Instr.matchBits, Instr.operandBits, Nat.reduceDiv] at h hT
    have hNNN : fieldNNN op = nnn := BitVec.eq_of_toNat_eq (by omega)
    simp only [decodeWord, hT, hNNN]
  | skeqi x nn | sknei x nn | ldi x nn | addi x nn | rnd x nn =>
    simp only [Instr.matchBits, Instr.operandBits, Nat.reduceDiv] at h hT
    have hX : fieldX op = x := Fin.ext (by omega)
    have hNN : fieldNN op = nn := BitVec.eq_of_toNat_eq (by omega)
    simp only [decodeWord, hT, hX, hNN]
  | draw x y n =>
    simp only [Instr.matchBits, Instr.operandBits, Nat.reduceDiv] at h hT
    have hX : fieldX op = x := Fin.ext (by omega)
    have hY : fieldY op = y := Fin.ext (by omega)
    have hN : fieldN op = n := BitVec.eq_of_toNat_eq (by omega)
    simp only [decodeWord, hT, hX, hY, hN]
  | skeqr x y | skner x y =>
    simp only [Instr.matchBits, Instr.operandBits, Nat.reduceDiv] at h hT
    have hX : fieldX op = x := Fin.ext (by omega)
    have hY : fieldY op = y := Fin.ext (by omega)
    have hN : fieldN op = 0#4 := BitVec.eq_of_toNat_eq (by rw [BitVec.toNat_ofNat]; omega)
    simp [decodeWord, hT, hX, hY, hN]
  | mov x y | or x y | and x y | xor x y | add x y | sub x y | shr x y | rsub x y | shl x y =>
    have hN := toNat_fieldN_of_toNat h (by simp only [Instr.operandBits]; omega)
    simp only [Instr.matchBits, Instr.operandBits, Nat.reduceDiv, Nat.reduceMod] at h hT hN
    have hX : fieldX op = x := Fin.ext (by omega)
    have hY : fieldY op = y := Fin.ext (by omega)
    simp only [decodeWord, decodeFamily8, hT, hX, hY, hN]
  | skkd x | skku x | rddt x | waitk x | wrdt x | wrst x | addidx x | font x | bcd x | dump x | load x =>
    have hNN := toNat_fieldNN_of_toNat h (by simp only [Instr.operandBits]; omega)
    simp only [Instr.matchBits, Instr.operandBits, Nat.reduceDiv, Nat.reduceMod] at h hT hNN
    have hX : fieldX op = x := Fin.ext (by omega)
    simp only [decodeWord, decodeFamilyE, decodeFamilyF, hT, hX, hNN]

theorem decodeWord_encode (i : Instr) : decodeWord (encode i) = .ok i := decodeWord_of_toNat (toNat_encode i)

/-! Decoding. -/

/-- The decoder reads back a word laid out big-endian. -/
theorem decode_wordBytes (op : Word) (rest : List Byte) :
    decode (wordBytes op ++ rest) = (decodeWord op).map fun i => (i, rest) := by
  have hop : BitVec.ofNat 16 (bigEndian (wordBytes op)) = op := by
    apply BitVec.eq_of_toNat_eq
    simp only [bigEndian, wordBytes, List.foldl_cons, List.foldl_nil, BitVec.toNat_ofNat]
    omega
  exact congrArg (fun w => (decodeWord w).map fun i => (i, rest)) hop

theorem encode_eq_of_toNat {op : Word} {i : Instr} (h : op.toNat = i.matchBits + i.operandBits) : encode i = op :=
  BitVec.eq_of_toNat_eq ((toNat_encode i).trans h.symm)

/-- What a decoding of the word may answer: an instruction whose word it is, or that the word is one of R95's. -/
def DecodesSoundly (op : Word) (r : Except DecodeError Instr) : Prop :=
  (∃ i, r = .ok i ∧ encode i = op) ∨ (IllegalWord op ∧ r = .error (.unknownOpcode op))

theorem decodesSoundly_ok {op : Word} {i : Instr} (h : op.toNat = i.matchBits + i.operandBits) :
    DecodesSoundly op (.ok i) :=
  .inl ⟨i, rfl, encode_eq_of_toNat h⟩

theorem decodesSoundly_error {op : Word} (h : IllegalWord op) : DecodesSoundly op (.error (.unknownOpcode op)) :=
  .inr ⟨h, rfl⟩

theorem decodeFamily0_sound {op : Word} (hT : fieldT op = 0x0) : DecodesSoundly op (decodeFamily0 op) := by
  unfold decodeFamily0
  split
  case isTrue h => exact decodesSoundly_ok (congrArg BitVec.toNat h)
  split
  case isTrue h => exact decodesSoundly_ok (congrArg BitVec.toNat h)
  case isFalse hcls hret =>
    refine decodesSoundly_error (.inl ⟨hT, ?_, ?_⟩)
    · exact fun h => hcls (BitVec.eq_of_toNat_eq h)
    · exact fun h => hret (BitVec.eq_of_toNat_eq h)

theorem decodeFamily8_sound {op : Word} (hT : fieldT op = 0x8) : DecodesSoundly op (decodeFamily8 op) := by
  have hop := toNat_eq_txyn op
  unfold decodeFamily8
  split
  case h_10 =>
    refine decodesSoundly_error (.inr (.inr (.inl ⟨hT, ?_⟩)))
    simp only [List.mem_cons, List.not_mem_nil, or_false, imp_false] at *
    omega
  all_goals
    apply decodesSoundly_ok
    simp only [Instr.matchBits, Instr.operandBits]
    omega

theorem decodeFamilyE_sound {op : Word} (hT : fieldT op = 0xE) : DecodesSoundly op (decodeFamilyE op) := by
  have hop := toNat_eq_txnn op
  unfold decodeFamilyE
  split
  case h_3 =>
    refine decodesSoundly_error (.inr (.inr (.inr (.inr (.inl ⟨hT, ?_⟩)))))
    simp only [List.mem_cons, List.not_mem_nil, or_false, imp_false] at *
    omega
  all_goals
    apply decodesSoundly_ok
    simp only [Instr.matchBits, Instr.operandBits]
    omega

theorem decodeFamilyF_sound {op : Word} (hT : fieldT op = 0xF) : DecodesSoundly op (decodeFamilyF op) := by
  have hop := toNat_eq_txnn op
  unfold decodeFamilyF
  split
  case h_10 =>
    refine decodesSoundly_error (.inr (.inr (.inr (.inr (.inr ⟨hT, ?_⟩)))))
    simp only [List.mem_cons, List.not_mem_nil, or_false, imp_false] at *
    omega
  all_goals
    apply decodesSoundly_ok
    simp only [Instr.matchBits, Instr.operandBits]
    omega

/-- Families 5 and 9: N must be 0. -/
theorem decodesSoundly_fixedN {op : Word} (i : Instr) (hm : 4096 * fieldT op = i.matchBits)
    (ho : i.operandBits = (fieldX op).val * 256 + (fieldY op).val * 16) (hN : op.toNat % 16 ≠ 0 → IllegalWord op) :
    DecodesSoundly op (if fieldN op = 0 then .ok i else .error (.unknownOpcode op)) := by
  have hop := toNat_eq_txyn op
  split
  case isTrue h =>
    have h0 : (fieldN op).toNat = 0 := congrArg BitVec.toNat h
    exact decodesSoundly_ok (by omega)
  case isFalse h =>
    refine decodesSoundly_error (hN fun h0 => h (BitVec.eq_of_toNat_eq ?_))
    rw [fieldN, BitVec.toNat_ofNat]
    exact h0

/-- The procedure of R94, family by family. -/
theorem decodeWord_sound (op : Word) : DecodesSoundly op (decodeWord op) := by
  have htnnn := toNat_eq_tnnn op
  have htxnn := toNat_eq_txnn op
  have htxyn := toNat_eq_txyn op
  unfold decodeWord
  split
  case h_1 hT => exact decodeFamily0_sound hT
  case h_9 hT => exact decodeFamily8_sound hT
  case h_15 hT => exact decodeFamilyE_sound hT
  case h_16 hT => exact decodeFamilyF_sound hT
  case h_6 hT => exact decodesSoundly_fixedN (.skeqr _ _) (by rw [hT]; rfl) rfl fun h => .inr (.inl ⟨hT, h⟩)
  case h_10 hT =>
    exact decodesSoundly_fixedN (.skner _ _) (by rw [hT]; rfl) rfl fun h => .inr (.inr (.inr (.inl ⟨hT, h⟩)))
  case h_17 =>
    have := fieldT_lt op
    simp only [imp_false] at *
    omega
  all_goals
    apply decodesSoundly_ok
    simp only [Instr.matchBits, Instr.operandBits]
    omega

/-- No row's fixed bits, with any operands in its fields, are a word of R95's list. -/
theorem not_illegalWord_encode (i : Instr) : ¬ IllegalWord (encode i) := by
  unfold IllegalWord
  rw [toNat_encode]
  cases i
  all_goals
    simp only [Instr.matchBits, Instr.operandBits, List.mem_cons, List.not_mem_nil, or_false]
    omega

/-! Rows of the opcode table (R96). -/

theorem fieldT_and_15 (op : Word) : fieldT op &&& 15 = fieldT op :=
  Nat.and_two_pow_sub_one_of_lt_two_pow (n := 4) (fieldT_lt op)

theorem toNat_and_F000 (op : Word) : (op &&& 0xF000).toNat = 4096 * fieldT op := by
  have hmask := Laws.mask_F000 (fieldT op) (fieldNNN op).isLt
  rw [fieldT_and_15, ← toNat_eq_tnnn] at hmask
  exact (BitVec.toNat_and op 0xF000).trans hmask

theorem toNat_and_F00F (op : Word) : (op &&& 0xF00F).toNat = 4096 * fieldT op + (fieldN op).toNat := by
  have hop : op.toNat = 4096 * fieldT op + (16 * ((fieldX op).val * 16 + (fieldY op).val) + (fieldN op).toNat) := by
    rw [toNat_eq_txyn]
    omega
  have hN : (fieldN op).toNat &&& 15 = (fieldN op).toNat :=
    Nat.and_two_pow_sub_one_of_lt_two_pow (n := 4) (fieldN op).isLt
  have hmask := Laws.mask_F00F (fieldT op) (m := (fieldX op).val * 16 + (fieldY op).val) (by omega) (fieldN op).isLt
  rw [fieldT_and_15, hN, ← hop] at hmask
  exact (BitVec.toNat_and op 0xF00F).trans hmask

theorem toNat_and_F0FF (op : Word) : (op &&& 0xF0FF).toNat = 4096 * fieldT op + (fieldNN op).toNat := by
  have hop : op.toNat = 4096 * fieldT op + (256 * (fieldX op).val + (fieldNN op).toNat) := by
    rw [toNat_eq_txnn]
    omega
  have hNN : (fieldNN op).toNat &&& 255 = (fieldNN op).toNat :=
    Nat.and_two_pow_sub_one_of_lt_two_pow (n := 8) (fieldNN op).isLt
  have hmask := Laws.mask_F0FF (fieldT op) (fieldX op).isLt (fieldNN op).isLt
  rw [fieldT_and_15, hNN, ← hop] at hmask
  exact (BitVec.toNat_and op 0xF0FF).trans hmask

theorem and_FFFF (op : Word) : op &&& 0xFFFF = op := BitVec.and_allOnes

/-- The instruction of the same row whose operands are the fields of the word. -/
def Instr.withFieldsOf (op : Word) : Instr → Instr
  | .cls => .cls
  | .ret => .ret
  | .jmp _ => .jmp (fieldNNN op)
  | .call _ => .call (fieldNNN op)
  | .skeqi _ _ => .skeqi (fieldX op) (fieldNN op)
  | .sknei _ _ => .sknei (fieldX op) (fieldNN op)
  | .skeqr _ _ => .skeqr (fieldX op) (fieldY op)
  | .ldi _ _ => .ldi (fieldX op) (fieldNN op)
  | .addi _ _ => .addi (fieldX op) (fieldNN op)
  | .mov _ _ => .mov (fieldX op) (fieldY op)
  | .or _ _ => .or (fieldX op) (fieldY op)
  | .and _ _ => .and (fieldX op) (fieldY op)
  | .xor _ _ => .xor (fieldX op) (fieldY op)
  | .add _ _ => .add (fieldX op) (fieldY op)
  | .sub _ _ => .sub (fieldX op) (fieldY op)
  | .shr _ _ => .shr (fieldX op) (fieldY op)
  | .rsub _ _ => .rsub (fieldX op) (fieldY op)
  | .shl _ _ => .shl (fieldX op) (fieldY op)
  | .skner _ _ => .skner (fieldX op) (fieldY op)
  | .ldidx _ => .ldidx (fieldNNN op)
  | .jmpv0 _ => .jmpv0 (fieldNNN op)
  | .rnd _ _ => .rnd (fieldX op) (fieldNN op)
  | .draw _ _ _ => .draw (fieldX op) (fieldY op) (fieldN op)
  | .skkd _ => .skkd (fieldX op)
  | .skku _ => .skku (fieldX op)
  | .rddt _ => .rddt (fieldX op)
  | .waitk _ => .waitk (fieldX op)
  | .wrdt _ => .wrdt (fieldX op)
  | .wrst _ => .wrst (fieldX op)
  | .addidx _ => .addidx (fieldX op)
  | .font _ => .font (fieldX op)
  | .bcd _ => .bcd (fieldX op)
  | .dump _ => .dump (fieldX op)
  | .load _ => .load (fieldX op)

@[simp] theorem matchBits_withFieldsOf (op : Word) (i : Instr) : (i.withFieldsOf op).matchBits = i.matchBits := by
  cases i <;> rfl

@[simp] theorem mask_withFieldsOf (op : Word) (i : Instr) : (i.withFieldsOf op).mask = i.mask := by
  cases i <;> rfl

/-- A word that matches the row is the row's fixed bits and, at their fields, the operands read from the word. -/
theorem toNat_eq_of_matches {op : Word} {i : Instr} (h : (op &&& i.mask).toNat = i.matchBits) :
    op.toNat = (i.withFieldsOf op).matchBits + (i.withFieldsOf op).operandBits := by
  have htnnn := toNat_eq_tnnn op
  have htxnn := toNat_eq_txnn op
  have htxyn := toNat_eq_txyn op
  rw [matchBits_withFieldsOf]
  cases i
  all_goals
    simp only [Instr.mask, Instr.matchBits, toNat_and_F000, toNat_and_F00F, toNat_and_F0FF, and_FFFF] at h
    simp only [Instr.withFieldsOf, Instr.matchBits, Instr.operandBits]
    omega

/-- The word of every instruction matches its row. -/
theorem tableRow : ∀ i : Instr, Laws.TableRow.Statement i
  | .cls => Laws.TableRow.cls
  | .ret => Laws.TableRow.ret
  | .jmp nnn => Laws.TableRow.jmp nnn
  | .call nnn => Laws.TableRow.call nnn
  | .skeqi x nn => Laws.TableRow.skeqi x nn
  | .sknei x nn => Laws.TableRow.sknei x nn
  | .skeqr x y => Laws.TableRow.skeqr x y
  | .ldi x nn => Laws.TableRow.ldi x nn
  | .addi x nn => Laws.TableRow.addi x nn
  | .mov x y => Laws.TableRow.mov x y
  | .or x y => Laws.TableRow.or x y
  | .and x y => Laws.TableRow.and x y
  | .xor x y => Laws.TableRow.xor x y
  | .add x y => Laws.TableRow.add x y
  | .sub x y => Laws.TableRow.sub x y
  | .shr x y => Laws.TableRow.shr x y
  | .rsub x y => Laws.TableRow.rsub x y
  | .shl x y => Laws.TableRow.shl x y
  | .skner x y => Laws.TableRow.skner x y
  | .ldidx nnn => Laws.TableRow.ldidx nnn
  | .jmpv0 nnn => Laws.TableRow.jmpv0 nnn
  | .rnd x nn => Laws.TableRow.rnd x nn
  | .draw x y n => Laws.TableRow.draw x y n
  | .skkd x => Laws.TableRow.skkd x
  | .skku x => Laws.TableRow.skku x
  | .rddt x => Laws.TableRow.rddt x
  | .waitk x => Laws.TableRow.waitk x
  | .wrdt x => Laws.TableRow.wrdt x
  | .wrst x => Laws.TableRow.wrst x
  | .addidx x => Laws.TableRow.addidx x
  | .font x => Laws.TableRow.font x
  | .bcd x => Laws.TableRow.bcd x
  | .dump x => Laws.TableRow.dump x
  | .load x => Laws.TableRow.load x

/-- Settles O2: every format puts its operands where the decoder takes its fields from. -/
theorem decodeInvertsEncode : Obligations.DecodeInvertsEncode := by
  unfold Obligations.DecodeInvertsEncode
  intro i rest
  rw [encodeBytes, decode_wordBytes, decodeWord_encode]
  rfl

/-- Settles O3: the decoding procedure is sound, and each instruction has one word. -/
theorem encodeInvertsDecode : Obligations.EncodeInvertsDecode := by
  unfold Obligations.EncodeInvertsDecode
  intro op i h
  obtain ⟨j, hj, hop⟩ | ⟨-, herr⟩ := decodeWord_sound op
  · cases h.symm.trans hj
    exact hop
  · cases h.symm.trans herr

/-- Settles O4: the fields of a matching word are the operands it decodes to. -/
theorem rowMatchesExactlyWhenDecoded : Obligations.RowMatchesExactlyWhenDecoded := by
  unfold Obligations.RowMatchesExactlyWhenDecoded
  intro op i
  constructor
  · intro h
    exact ⟨i.withFieldsOf op, decodeWord_of_toNat (toNat_eq_of_matches h), matchBits_withFieldsOf op i,
      mask_withFieldsOf op i⟩
  · rintro ⟨j, hj, hbits, hmask⟩
    rw [← hbits, ← hmask, ← encodeInvertsDecode op j hj]
    exact tableRow j

/-- Settles O5: a word is listed or the word of an instruction, and not both. -/
theorem unknownWordsAreExactlyListed : Obligations.UnknownWordsAreExactlyListed := by
  unfold Obligations.UnknownWordsAreExactlyListed
  intro op
  obtain ⟨i, hi, rfl⟩ | ⟨hill, herr⟩ := decodeWord_sound op
  · have hlegal := not_illegalWord_encode i
    simp [hlegal, hi]
  · simp [hill, herr]

/-- Settles O1: the twelve words, decoded. -/
theorem specWordsDecodeAsListed : Obligations.SpecWordsDecodeAsListed := by
  unfold Obligations.SpecWordsDecodeAsListed
  exact ⟨rfl, rfl, rfl, rfl, rfl, rfl, rfl, rfl, rfl, rfl, rfl, rfl⟩

end Sys2Proof
end

section
/-! ### What an instruction does (spec/40_cycle_step.md R125; spec/60_exceptions.md R251, R255) -/

namespace Sys2Proof.Machine

/-- The registers after a result and a flag: `State.setResultAndFlag` as a function of what it reads. -/
def flaggedRegs (v : Vector Byte 16) (draws : Nat) (x : RegIdx) (result : Byte) (flag : Bool) : Vector Byte 16 :=
  if x = vf then v.set vf (Config.flagClash draws) else (v.set x result).set vf (flagByte flag)

theorem State.setResultAndFlag_eq_flaggedRegs (s : State) (x : RegIdx) (b : Byte) (c : Bool) :
    s.setResultAndFlag x b c = { s with v := flaggedRegs s.v s.draws x b c } := by
  unfold State.setResultAndFlag flaggedRegs
  split <;> rfl

/-- The state an instruction leaves when it takes no fatal, as updates of the fields it writes; `exec_cases` ties it to
the model. -/
def effect (i : Instr) (s : State) : State :=
  match i with
  | .cls => { s with fb := Framebuffer.blank, dirty := true }.advance
  | .ret => { s with depth := s.depth - 1 }.jumpTo (s.stackAt (s.depth - 1))
  | .jmp nnn => s.jumpTo (addrWord nnn)
  | .call nnn =>
    { s with stack := s.stack.setIfInBounds s.depth (s.pc + 2), depth := s.depth + 1 }.jumpTo (addrWord nnn)
  | .skeqi x nn => s.skipIf (s.reg x == nn)
  | .sknei x nn => s.skipIf (s.reg x != nn)
  | .skeqr x y => s.skipIf (s.reg x == s.reg y)
  | .ldi x nn => (s.setReg x nn).advance
  | .addi x nn => (s.setReg x (s.reg x + nn)).advance
  | .mov x y => (s.setReg x (s.reg y)).advance
  | .or x y => (s.setReg x (s.reg x ||| s.reg y)).advance
  | .and x y => (s.setReg x (s.reg x &&& s.reg y)).advance
  | .xor x y => (s.setReg x (s.reg x ^^^ s.reg y)).advance
  | .add x y =>
    { s with v := flaggedRegs s.v s.draws x (s.reg x + s.reg y) (carry (s.reg x) (s.reg y)) }.advance
  | .sub x y =>
    { s with v := flaggedRegs s.v s.draws x (s.reg x - s.reg y) (exceeds (s.reg x) (s.reg y)) }.advance
  | .shr x _ => { s with v := flaggedRegs s.v s.draws x (s.reg x >>> 1) (lowBit (s.reg x)) }.advance
  | .rsub x y =>
    { s with v := flaggedRegs s.v s.draws x (s.reg y - s.reg x) (exceeds (s.reg y) (s.reg x)) }.advance
  | .shl x _ => { s with v := flaggedRegs s.v s.draws x (s.reg x <<< 1) (topBit (s.reg x)) }.advance
  | .skner x y => s.skipIf (s.reg x != s.reg y)
  | .ldidx nnn => (s.setIndex (addrWord nnn)).advance
  | .jmpv0 nnn => s.jumpTo (addrWord nnn + byteWord (s.reg 0))
  | .rnd x nn => (s.setReg x (s.input.randByte &&& nn)).advance
  | .draw x y n => (s.drawRows (s.reg x) (s.reg y) (s.mem.readList s.indexAddr n.toNat)).advance
  | .skkd x => s.skipIf (s.input.keyDown.getLsbD (s.reg x).toNat)
  | .skku x => s.skipIf (!s.input.keyDown.getLsbD (s.reg x).toNat)
  | .rddt x => (s.setReg x s.dt).advance
  | .waitk x =>
    { s with
      v := s.input.lastKey.elim s.v fun k => s.v.set x (keyByte k)
      pc := s.input.lastKey.elim s.pc fun _ => s.pc + 2 }
  | .wrdt x => { s with dt := s.reg x }.advance
  | .wrst x => { s with st := s.reg x }.advance
  | .addidx x => (s.setIndex (s.i + byteWord (s.reg x))).advance
  | .font x => (s.setIndex (glyphAddr (s.reg x).toNat)).advance
  | .bcd x => { s with mem := s.mem.writeList s.indexAddr (bcdDigits (s.reg x)) }.advance
  | .dump x => { s with mem := s.mem.writeList s.indexAddr (s.regsUpTo x) }.advance
  | .load x => (s.setRegs (s.mem.readList s.indexAddr (x.val + 1))).advance

/-! The operands that may be out of range. -/

theorem keyNumber_cases (b : Byte) :
    (∃ h : b.toNat < 16, keyNumber b = .ok ⟨b.toNat, h⟩) ∨
      (15 < b.toNat ∧ keyNumber b = .error (.keyOutOfRange, b.toNat)) := by
  unfold keyNumber
  by_cases h : b.toNat < 16
  · exact .inl ⟨h, dif_pos h⟩
  · exact .inr ⟨by omega, dif_neg h⟩

theorem glyphDigit_cases (b : Byte) :
    (b.toNat < 16 ∧ glyphDigit b = .ok b.toNat) ∨
      (15 < b.toNat ∧ glyphDigit b = .error (.glyphOutOfRange, b.toNat)) := by
  unfold glyphDigit
  by_cases h : b.toNat < 16
  · exact .inl ⟨h, if_pos h⟩
  · exact .inr ⟨by omega, if_neg h⟩

@[simp] theorem State.length_regsUpTo (s : State) (x : RegIdx) : (s.regsUpTo x).length = x.val + 1 := by
  simp only [State.regsUpTo, List.length_take, Vector.length_toList]
  omega

/-- Everything an instruction can do: its effect, where it has no fatal of its own, or else that fatal. -/
theorem exec_cases (i : Instr) (s : State) :
    (ownFatal i s = none ∧ exec i s = .next (effect i s)) ∨
      ∃ c info, ownFatal i s = some (c, info) ∧ exec i s = .next (s.fatal c info) := by
  cases i with
  | ret =>
    obtain ⟨hdepth, hpop⟩ | ⟨hdepth, hpop⟩ := s.pop_cases
    · exact .inl ⟨if_neg (by omega), by rw [exec, execRet, hpop]; rfl⟩
    · exact .inr ⟨_, _, if_pos hdepth, by rw [exec, execRet, hpop]; rfl⟩
  | call nnn =>
    obtain ⟨hdepth, hpush⟩ | ⟨hdepth, hpush⟩ := s.push_cases (s.pc + 2)
    · exact .inl ⟨if_pos hdepth, by rw [exec, execCall, hpush]; rfl⟩
    · exact .inr ⟨_, _, if_neg (by omega), by rw [exec, execCall, hpush]; rfl⟩
  | skkd x =>
    obtain ⟨hkey, hnum⟩ | ⟨hkey, hnum⟩ := keyNumber_cases (s.reg x)
    · exact .inl ⟨if_neg (by omega), by rw [exec, execSkkd, hnum]; rfl⟩
    · exact .inr ⟨_, _, if_pos hkey, by rw [exec, execSkkd, hnum]; rfl⟩
  | skku x =>
    obtain ⟨hkey, hnum⟩ | ⟨hkey, hnum⟩ := keyNumber_cases (s.reg x)
    · exact .inl ⟨if_neg (by omega), by rw [exec, execSkku, hnum]; rfl⟩
    · exact .inr ⟨_, _, if_pos hkey, by rw [exec, execSkku, hnum]; rfl⟩
  | font x =>
    obtain ⟨hdigit, hnum⟩ | ⟨hdigit, hnum⟩ := glyphDigit_cases (s.reg x)
    · exact .inl ⟨if_neg (by omega), by rw [exec, execFont, hnum]; rfl⟩
    · exact .inr ⟨_, _, if_pos hdigit, by rw [exec, execFont, hnum]; rfl⟩
  | bcd x =>
    have hwrites := s.memWrite_cases s.indexAddr (bs := bcdDigits (s.reg x)) (List.cons_ne_nil _ _)
    obtain ⟨hrange, hwrite⟩ | ⟨hrange, hwrite⟩ := hwrites
    · replace hrange : s.i.toNat + 3 ≤ 4096 := hrange
      exact .inl ⟨if_neg (by omega), by rw [exec, execBcd, hwrite]; rfl⟩
    · replace hrange : 4096 < s.i.toNat + 3 := hrange
      exact .inr ⟨_, _, if_pos (by omega), by rw [exec, execBcd, hwrite]; rfl⟩
  | dump x =>
    have hne : s.regsUpTo x ≠ [] := List.ne_nil_of_length_pos (by simp)
    obtain ⟨hrange, hwrite⟩ | ⟨hrange, hwrite⟩ := s.memWrite_cases s.indexAddr hne
    all_goals rw [State.length_regsUpTo, State.indexAddr] at hrange
    · exact .inl ⟨if_neg (by omega), by rw [exec, execDump, hwrite]; rfl⟩
    · exact .inr ⟨_, _, if_pos (by omega), by rw [exec, execDump, hwrite, s.length_regsUpTo]; rfl⟩
  | load x =>
    have hreads := s.memRead_cases s.indexAddr (x.val + 1)
    rw [State.indexAddr] at hreads
    obtain ⟨hrange, -, hread⟩ | ⟨-, hrange, hread⟩ | ⟨hzero, -⟩ := hreads
    · exact .inl ⟨if_neg (by omega), by rw [exec, execLoad, State.indexAddr, hread]; rfl⟩
    · exact .inr ⟨_, _, if_pos (by omega), by rw [exec, execLoad, State.indexAddr, hread]; rfl⟩
    · omega
  | draw x y n =>
    have hreads := s.memRead_cases s.indexAddr n.toNat
    rw [State.indexAddr] at hreads
    obtain ⟨hrange, hbase, hread⟩ | ⟨hn, hrange, hread⟩ | ⟨hn, hbase, hread⟩ := hreads
    · refine .inl ⟨?_, by rw [exec, execDraw, State.indexAddr, hread]; rfl⟩
      by_cases hn : n.toNat = 0
      · exact (if_pos hn).trans (if_neg (by omega))
      · exact (if_neg hn).trans (if_neg (by omega))
    · refine .inr ⟨_, _, ?_, by rw [exec, execDraw, State.indexAddr, hread]; rfl⟩
      exact (if_neg hn).trans (if_pos (by omega))
    · refine .inr ⟨_, _, ?_, by rw [exec, execDraw, State.indexAddr, hread]; rfl⟩
      exact (if_pos hn).trans (if_pos hbase)
  | waitk x =>
    refine .inl ⟨rfl, ?_⟩
    rw [exec, execWaitk, effect]
    cases s.input.lastKey <;> rfl
  | add x y | sub x y | shr x y | rsub x y | shl x y =>
    exact .inl ⟨rfl, by rw [effect, ← s.setResultAndFlag_eq_flaggedRegs]; rfl⟩
  | _ => exact .inl ⟨rfl, rfl⟩

theorem exec_of_ownFatal_eq_none {i : Instr} {s : State} (h : ownFatal i s = none) : exec i s = .next (effect i s) := by
  obtain ⟨-, hexec⟩ | ⟨c, info, hfatal, -⟩ := exec_cases i s
  · exact hexec
  · cases h.symm.trans hfatal

theorem exec_of_ownFatal_eq_some {i : Instr} {s : State} {c : Fault} {info : Nat} (h : ownFatal i s = some (c, info)) :
    exec i s = .next (s.fatal c info) := by
  obtain ⟨hnone, -⟩ | ⟨c', info', hfatal, hexec⟩ := exec_cases i s
  · cases hnone.symm.trans h
  · cases h.symm.trans hfatal
    exact hexec

/-- An instruction that answers a running core had no fatal, and left its effect. -/
theorem eq_effect_of_exec {i : Instr} {s t : State} (h : exec i s = .next t) (ht : t.halted = false) :
    ownFatal i s = none ∧ t = effect i s := by
  obtain ⟨hnone, hexec⟩ | ⟨c, info, -, hexec⟩ := exec_cases i s
  · cases h.symm.trans hexec
    exact ⟨hnone, rfl⟩
  · cases h.symm.trans hexec
    cases ht

theorem State.fatal_takes (s : State) (c : Fault) (info : Nat) : (s.fatal c info).Fatal c info := ⟨rfl, rfl, rfl⟩

/-- The cause of an instruction's own fatal is never the unreachable one (spec/60_exceptions.md R251). -/
theorem ownFatal_ne_registerOutOfRange {i : Instr} {s : State} {c : Fault} {info : Nat}
    (h : ownFatal i s = some (c, info)) : c ≠ .registerOutOfRange := by
  rintro rfl
  cases i with
  | draw x y n =>
    by_cases hn : n.toNat = 0 <;> simp [ownFatal, hn] at h
  | call nnn | ret | skkd x | skku x | font x | bcd x | dump x | load x => simp [ownFatal] at h
  | _ => cases h

/-! When an instruction that may take a fatal takes none. -/

section
variable (x y : RegIdx) (nnn : Addr) (n : Nibble) (s : State)

theorem ownFatal_call_eq_none_iff : ownFatal (.call nnn) s = none ↔ s.depth < config.stackCapacity := by
  simp [ownFatal]

theorem ownFatal_ret_eq_none_iff : ownFatal .ret s = none ↔ 0 < s.depth := by
  simp [ownFatal, Nat.pos_iff_ne_zero]

theorem ownFatal_skkd_eq_none_iff : ownFatal (.skkd x) s = none ↔ (s.reg x).toNat ≤ 15 := by
  simp [ownFatal]

theorem ownFatal_skku_eq_none_iff : ownFatal (.skku x) s = none ↔ (s.reg x).toNat ≤ 15 := by
  simp [ownFatal]

theorem ownFatal_font_eq_none_iff : ownFatal (.font x) s = none ↔ (s.reg x).toNat ≤ 15 := by
  simp [ownFatal]

theorem ownFatal_bcd_eq_none_iff : ownFatal (.bcd x) s = none ↔ s.i.toNat + 2 ≤ 4095 := by
  simp [ownFatal]

theorem ownFatal_dump_eq_none_iff : ownFatal (.dump x) s = none ↔ s.i.toNat + x.val ≤ 4095 := by
  simp [ownFatal]

theorem ownFatal_load_eq_none_iff : ownFatal (.load x) s = none ↔ s.i.toNat + x.val ≤ 4095 := by
  simp [ownFatal]

theorem ownFatal_draw_eq_none_iff : ownFatal (.draw x y n) s = none ↔ SpriteInRange s.i.toNat n.toNat := by
  by_cases hn : n.toNat = 0 <;> simp [ownFatal, SpriteInRange, hn] <;> omega

end

/-! The fields an instruction leaves as they were. -/

section
variable (i : Instr) (s : State)

@[simp] theorem effect_halted : (effect i s).halted = s.halted := by cases i <;> rfl
@[simp] theorem effect_faultCause : (effect i s).faultCause = s.faultCause := by cases i <;> rfl
@[simp] theorem effect_faultInfo : (effect i s).faultInfo = s.faultInfo := by cases i <;> rfl
@[simp] theorem effect_initial : (effect i s).initial = s.initial := by cases i <;> rfl
@[simp] theorem effect_inputs : (effect i s).inputs = s.inputs := by cases i <;> rfl
@[simp] theorem effect_draws : (effect i s).draws = s.draws := by cases i <;> rfl

end

section
variable {i : Instr} (s : State)

theorem effect_mem (h : ∀ x, i ≠ .bcd x ∧ i ≠ .dump x) : (effect i s).mem = s.mem := by
  cases i with
  | bcd x => exact absurd rfl (h x).1
  | dump x => exact absurd rfl (h x).2
  | _ => rfl

theorem effect_i (h : ∀ x nnn, i ≠ .ldidx nnn ∧ i ≠ .addidx x ∧ i ≠ .font x) : (effect i s).i = s.i := by
  cases i with
  | ldidx nnn =>
    obtain ⟨hldidx, -⟩ := h 0 nnn
    exact absurd rfl hldidx
  | addidx x =>
    obtain ⟨-, haddidx, -⟩ := h x 0
    exact absurd rfl haddidx
  | font x =>
    obtain ⟨-, -, hfont⟩ := h x 0
    exact absurd rfl hfont
  | _ => rfl

theorem effect_stack_depth (h : ∀ nnn, i ≠ .ret ∧ i ≠ .call nnn) :
    (effect i s).stack = s.stack ∧ (effect i s).depth = s.depth := by
  cases i with
  | ret => exact absurd rfl (h 0).1
  | call nnn => exact absurd rfl (h nnn).2
  | _ => exact ⟨rfl, rfl⟩

theorem effect_fb_dirty (h : ∀ x y n, i ≠ .cls ∧ i ≠ .draw x y n) :
    (effect i s).fb = s.fb ∧ (effect i s).dirty = s.dirty := by
  cases i with
  | cls => exact absurd rfl (h 0 0 0).1
  | draw x y n => exact absurd rfl (h x y n).2
  | _ => exact ⟨rfl, rfl⟩

theorem effect_dt (h : ∀ x, i ≠ .wrdt x) : (effect i s).dt = s.dt := by
  cases i with
  | wrdt x => exact absurd rfl (h x)
  | _ => rfl

theorem effect_st (h : ∀ x, i ≠ .wrst x) : (effect i s).st = s.st := by
  cases i with
  | wrst x => exact absurd rfl (h x)
  | _ => rfl

end

/-- Of the registers, a result and a flag reach VX and VF only. -/
theorem getElem_flaggedRegs_ne (v : Vector Byte 16) (draws : Nat) {x r : RegIdx} (b : Byte) (c : Bool) (hx : r ≠ x)
    (hf : r ≠ vf) : (flaggedRegs v draws x b c)[r] = v[r] := by
  have hx' : (x : Nat) ≠ r := fun e => hx (Fin.ext e.symm)
  have hf' : (vf : Nat) ≠ r := fun e => hf (Fin.ext e.symm)
  unfold flaggedRegs
  split <;> simp [hx', hf']

theorem effect_reg {i : Instr} {s : State} {r : RegIdx} (h : writesReg i r = false) : (effect i s).reg r = s.reg r := by
  cases i with
  | ldi x | addi x | mov x | or x | and x | xor x | rnd x | rddt x =>
    exact s.reg_setReg_ne (beq_eq_false_iff_ne.mp h) _
  | add x y | sub x y | shr x y | rsub x y | shl x y =>
    obtain ⟨hx, hf⟩ := Bool.or_eq_false_iff.mp h
    exact getElem_flaggedRegs_ne s.v s.draws _ _ (beq_eq_false_iff_ne.mp hx) (beq_eq_false_iff_ne.mp hf)
  | draw x y n => exact State.reg_setReg_ne _ (beq_eq_false_iff_ne.mp h) _
  | load x =>
    have hr : x.val < r.val := by simpa [writesReg] using h
    refine (s.reg_setRegs _ r).trans (List.getD_eq_default _ _ ?_)
    rw [Memory.length_readList]
    omega
  | waitk x =>
    rw [effect, State.reg]
    cases s.input.lastKey with
    | none => rfl
    | some k => exact s.reg_setReg_ne (beq_eq_false_iff_ne.mp h) _
  | _ => rfl

/-! What an instruction reads. -/

section
variable (i : Instr) (s : State)

theorem ownFatal_withInputs (inps : List CycleInputs) : ownFatal i { s with inputs := inps } = ownFatal i s := by
  cases i <;> rfl

theorem ownFatal_withHostBits (b : Byte) (d n : Bool) :
    ownFatal i { s with st := b, dirty := d, initial := n } = ownFatal i s := by
  cases i <;> rfl

theorem effect_withInputs {i : Instr} (inps : List CycleInputs)
    (h : ∀ x nn, i ≠ .skkd x ∧ i ≠ .skku x ∧ i ≠ .waitk x ∧ i ≠ .rnd x nn) :
    effect i { s with inputs := inps } = { effect i s with inputs := inps } := by
  cases i with
  | skkd x =>
    obtain ⟨hskkd, -⟩ := h x 0
    exact absurd rfl hskkd
  | skku x =>
    obtain ⟨-, hskku, -⟩ := h x 0
    exact absurd rfl hskku
  | waitk x =>
    obtain ⟨-, -, hwaitk, -⟩ := h x 0
    exact absurd rfl hwaitk
  | rnd x nn =>
    obtain ⟨-, -, -, hrnd⟩ := h x nn
    exact absurd rfl hrnd
  | _ => rfl

/-- Forgetting ST, `dirty` and `initial` before an instruction changes nothing but those three after it. -/
theorem effect_withHostBits (b : Byte) (d n : Bool) :
    { effect i { s with st := b, dirty := d, initial := n } with st := 0, dirty := false, initial := false } =
      { effect i s with st := 0, dirty := false, initial := false } := by
  cases i <;> rfl

end

/-- Settles O15: an instruction has its effect, which leaves the latch alone, or takes its own fatal. -/
theorem instructionsTakeOnlyTheirOwnFatal : Obligations.InstructionsTakeOnlyTheirOwnFatal := by
  unfold Obligations.InstructionsTakeOnlyTheirOwnFatal
  intro i s
  cases h : ownFatal i s with
  | none =>
    refine ⟨effect i s, exec_of_ownFatal_eq_none h, nofun, fun _ => ?_⟩
    exact ⟨effect_halted i s, effect_faultCause i s, effect_faultInfo i s⟩
  | some f =>
    obtain ⟨c, info⟩ := f
    refine ⟨s.fatal c info, exec_of_ownFatal_eq_some h, ?_, nofun⟩
    rintro _ _ ⟨⟩
    exact s.fatal_takes c info

/-- Settles O19: by the register frame of the effect. -/
theorem onlyNamedRegistersChange : Obligations.OnlyNamedRegistersChange := by
  unfold Obligations.OnlyNamedRegistersChange
  intro i s t r hexec hrun hr
  obtain ⟨-, rfl⟩ := eq_effect_of_exec hexec hrun
  exact effect_reg hr

/-- Settles O20: by the frames of memory and `I`. -/
theorem memoryAndIndexHaveTheirWriters : Obligations.MemoryAndIndexHaveTheirWriters := by
  unfold Obligations.MemoryAndIndexHaveTheirWriters
  intro i s t hexec hrun
  obtain ⟨-, rfl⟩ := eq_effect_of_exec hexec hrun
  exact ⟨fun h a => by rw [effect_mem s h], effect_i s⟩

/-- Settles O21: by the frames of the other fields. -/
theorem stackDisplayTimersHaveTheirWriters : Obligations.StackDisplayTimersHaveTheirWriters := by
  unfold Obligations.StackDisplayTimersHaveTheirWriters
  intro i s t hexec hrun
  obtain ⟨-, rfl⟩ := eq_effect_of_exec hexec hrun
  exact ⟨effect_stack_depth s, effect_fb_dirty s, effect_dt s, effect_st s, effect_initial i s, effect_inputs i s,
    effect_draws i s⟩

/-- Settles O22: neither the condition of a fatal, nor what a fatal leaves, nor the effect reads the inputs. -/
theorem inputsReachOnlyTheirReaders : Obligations.InputsReachOnlyTheirReaders := by
  unfold Obligations.InputsReachOnlyTheirReaders
  intro i s t inps hi hexec
  obtain ⟨hnone, heffect⟩ | ⟨c, info, hfatal, heffect⟩ := exec_cases i s
  · cases hexec.symm.trans heffect
    rw [exec_of_ownFatal_eq_none ((ownFatal_withInputs i s inps).trans hnone), effect_withInputs s inps hi]
  · cases hexec.symm.trans heffect
    rw [exec_of_ownFatal_eq_some ((ownFatal_withInputs i s inps).trans hfatal), s.fatal_withInputs]

/-- Settles O23: the same of ST, `initial` and `dirty`. -/
theorem soundTimerAndHostBitsAreNeverRead : Obligations.SoundTimerAndHostBitsAreNeverRead := by
  unfold Obligations.SoundTimerAndHostBitsAreNeverRead
  intro i s t u b d n hexec hexec'
  obtain ⟨hnone, heffect⟩ | ⟨c, info, hfatal, heffect⟩ := exec_cases i s
  · cases hexec.symm.trans heffect
    cases hexec'.symm.trans (exec_of_ownFatal_eq_none ((ownFatal_withHostBits i s b d n).trans hnone))
    exact effect_withHostBits i s b d n
  · cases hexec.symm.trans heffect
    cases hexec'.symm.trans (exec_of_ownFatal_eq_some ((ownFatal_withHostBits i s b d n).trans hfatal))
    rfl

end Sys2Proof.Machine
end

section
/-! ### The next program counter (spec/40_cycle_step.md R126) -/

namespace Sys2Proof.Machine

theorem toNat_add_two {w : Word} (h : w.toNat ≤ 4094) : (w + 2).toNat = w.toNat + 2 := by bv_omega

theorem State.toNat_pc_skipIf {s : State} {c : Bool} {p : Prop} [Decidable p] (hpc : s.pc.toNat ≤ 4094)
    (h : c = true ↔ p) : (s.skipIf c).pc.toNat = if p then s.pc.toNat + 4 else s.pc.toNat + 2 := by
  rw [s.skipIf_eq_of_iff h]
  split <;> bv_omega

/-- The sum of JMPV0 is not reduced: it stays below 65536 (R143). -/
theorem toNat_addrWord_add_byteWord (nnn : Addr) (b : Byte) :
    (addrWord nnn + byteWord b).toNat = nnn.toNat + b.toNat := by
  have haddr := nnn.isLt
  have hbyte := b.isLt
  rw [BitVec.toNat_add, toNat_addrWord, toNat_byteWord]
  omega

/-- The table of R126 is the `pc` of the effect. -/
theorem toNat_effect_pc (i : Instr) {s : State} (hpc : s.pc.toNat ≤ 4094) : (effect i s).pc.toNat = nextPc i s := by
  cases i with
  | jmp nnn | call nnn => exact toNat_addrWord nnn
  | ret => rfl
  | jmpv0 nnn => exact toNat_addrWord_add_byteWord nnn (s.reg 0)
  | skeqi x nn => exact State.toNat_pc_skipIf hpc beq_iff_eq
  | sknei x nn => exact State.toNat_pc_skipIf hpc bne_iff_ne
  | skeqr x y => exact State.toNat_pc_skipIf hpc beq_iff_eq
  | skner x y => exact State.toNat_pc_skipIf hpc bne_iff_ne
  | skkd x => exact State.toNat_pc_skipIf hpc Iff.rfl
  | skku x => exact State.toNat_pc_skipIf hpc (Bool.not_eq_true' _).to_iff
  | waitk x =>
    rw [effect, nextPc]
    cases s.input.lastKey with
    | none => rfl
    | some k => exact toNat_add_two hpc
  | _ => exact toNat_add_two hpc

/-- Settles O9: CALL's entry is the one just pushed. -/
theorem nextPcFollowsTable : Obligations.NextPcFollowsTable := by
  unfold Obligations.NextPcFollowsTable
  intro i s t hpc hexec hrun
  obtain ⟨hnone, rfl⟩ := eq_effect_of_exec hexec hrun
  refine ⟨toNat_effect_pc i hpc, ?_⟩
  rintro nnn rfl
  have hroom := (ownFatal_call_eq_none_iff nnn s).mp hnone
  have htop : (effect (.call nnn) s).stackAt s.depth = s.pc + 2 :=
    (State.stackAt_push hroom (s.depth + 1) s.depth).trans (if_pos rfl)
  rw [htop, toNat_add_two hpc]

end Sys2Proof.Machine
end

section
/-! ### The cycle around Execute (spec/40_cycle_step.md R120; spec/60_exceptions.md R252, R255) -/

namespace Sys2Proof.Machine

/-! The four ways of a step, by what decides between them. -/

section
variable {s : State}

theorem step_of_halted (h : s.halted = true) : step s = .next s := if_pos h

theorem step_of_fetch_eq_error {c : Fault} {info : Nat} (hrun : s.halted = false) (hf : s.fetch = .error (c, info)) :
    step s = .next (s.fatal c info).dropInput := by
  simp only [step, cycle, hrun, hf, Bool.false_eq_true, if_false]

theorem step_of_decodeWord_eq_error {op : Word} {e : DecodeError} (hrun : s.halted = false) (hf : s.fetch = .ok op)
    (hd : decodeWord op = .error e) : step s = .next (s.clearDirty.fatal .unknownOpcode op.toNat).dropInput := by
  simp only [step, cycle, hrun, hf, hd, Bool.false_eq_true, if_false]

theorem step_of_decodeWord_eq_ok {op : Word} {i : Instr} (hrun : s.halted = false) (hf : s.fetch = .ok op)
    (hd : decodeWord op = .ok i) : step s = State.endCycle (exec i s.clearDirty) := by
  simp only [step, cycle, hrun, hf, hd, Bool.false_eq_true, if_false]

end

theorem State.opAt_lt (s : State) : s.opAt < 65536 := by
  have := (s.mem.read s.pc.toNat).isLt
  have := (s.mem.read (s.pc.toNat + 1)).isLt
  rw [State.opAt]
  omega

theorem State.fetch_eq_ok {s : State} (h : s.pc.toNat ≤ 4094) : s.fetch = .ok (BitVec.ofNat 16 s.opAt) :=
  (fetchIsBigEndianAndRangeChecked s).1 (by omega)

theorem State.fetch_eq_error {s : State} (h : 4095 ≤ s.pc.toNat) :
    s.fetch = .error (.memoryOutOfRange, s.pc.toNat + 1) :=
  (fetchIsBigEndianAndRangeChecked s).2 h

/-- Two bytes decode as the big-endian word they are (R68, R90). -/
theorem decode_pair_eq_ok {hi lo : Byte} {i : Instr} :
    decode [hi, lo] = .ok (i, []) ↔ decodeWord (BitVec.ofNat 16 (hi.toNat * 256 + lo.toNat)) = .ok i := by
  have hbytes : bigEndian [hi, lo] = hi.toNat * 256 + lo.toNat := by simp [bigEndian]
  rw [← hbytes, decode]
  cases decodeWord (BitVec.ofNat 16 (bigEndian [hi, lo])) <;> simp [Except.map]

theorem State.fetches_iff {s : State} {i : Instr} :
    s.Fetches i ↔ s.halted = false ∧ s.pc.toNat ≤ 4094 ∧ decodeWord (BitVec.ofNat 16 s.opAt) = .ok i :=
  and_congr_right fun _ => and_congr_right fun _ => decode_pair_eq_ok

theorem State.Fetches.running {s : State} {i : Instr} (h : s.Fetches i) : s.halted = false := h.1

theorem State.Fetches.pc_le {s : State} {i : Instr} (h : s.Fetches i) : s.pc.toNat ≤ 4094 := h.2.1

theorem State.Fetches.step_eq {s : State} {i : Instr} (h : s.Fetches i) :
    step s = State.endCycle (exec i s.clearDirty) := by
  obtain ⟨hrun, hpc, hd⟩ := State.fetches_iff.mp h
  exact step_of_decodeWord_eq_ok hrun (State.fetch_eq_ok hpc) hd

theorem State.endCycle_of_running {t : State} (h : t.halted = false) :
    State.endCycle (.next t) = .next t.finish.dropInput := by
  simp only [State.endCycle, h, Bool.false_eq_true, if_false]

theorem State.endCycle_of_halted {t : State} (h : t.halted = true) : State.endCycle (.next t) = .next t.dropInput := by
  simp only [State.endCycle, h, if_true]

theorem State.Fetches.effect_halted {s : State} {i : Instr} (h : s.Fetches i) :
    (effect i s.clearDirty).halted = false :=
  (Machine.effect_halted i s.clearDirty).trans h.running

/-- A cycle whose instruction has no fatal. -/
theorem State.Fetches.step_of_ownFatal_eq_none {s : State} {i : Instr} (h : s.Fetches i)
    (hnone : ownFatal i s.clearDirty = none) : step s = .next (effect i s.clearDirty).finish.dropInput := by
  rw [h.step_eq, exec_of_ownFatal_eq_none hnone, State.endCycle_of_running h.effect_halted]

/-- A cycle whose instruction takes its fatal. -/
theorem State.Fetches.step_of_ownFatal_eq_some {s : State} {i : Instr} {c : Fault} {info : Nat} (h : s.Fetches i)
    (hfatal : ownFatal i s.clearDirty = some (c, info)) : step s = .next (s.fatal c info).dropInput := by
  rw [h.step_eq, exec_of_ownFatal_eq_some hfatal, State.endCycle_of_halted rfl]
  rfl

/-- Everything a step can leave: the same halted state, a fatal, or the effect of the fetched instruction at the end of
its cycle. -/
theorem step_outcomes (s : State) :
    (s.halted = true ∧ step s = .next s) ∨
    (s.halted = false ∧ ∃ c info, c ≠ .registerOutOfRange ∧ step s = .next (s.fatal c info).dropInput) ∨
    (∃ i, s.Fetches i ∧ ownFatal i s.clearDirty = none ∧
      step s = .next (effect i s.clearDirty).finish.dropInput) := by
  cases hrun : s.halted with
  | true => exact .inl ⟨rfl, step_of_halted hrun⟩
  | false =>
    refine .inr ?_
    by_cases hpc : s.pc.toNat ≤ 4094
    · cases hd : decodeWord (BitVec.ofNat 16 s.opAt) with
      | error e =>
        exact .inl ⟨rfl, .unknownOpcode, _, nofun, step_of_decodeWord_eq_error hrun (State.fetch_eq_ok hpc) hd⟩
      | ok i =>
        have hf : s.Fetches i := State.fetches_iff.mpr ⟨hrun, hpc, hd⟩
        cases hown : ownFatal i s.clearDirty with
        | none => exact .inr ⟨i, hf, hown, hf.step_of_ownFatal_eq_none hown⟩
        | some f =>
          exact .inl ⟨rfl, f.1, f.2, ownFatal_ne_registerOutOfRange hown, hf.step_of_ownFatal_eq_some hown⟩
    · have hf := State.fetch_eq_error (s := s) (by omega)
      exact .inl ⟨rfl, .memoryOutOfRange, _, nofun, step_of_fetch_eq_error hrun hf⟩

/-- Settles O6: both ends of a cycle, written out. -/
theorem stepRunsDecodedInstruction : Obligations.StepRunsDecodedInstruction := by
  unfold Obligations.StepRunsDecodedInstruction
  intro s t i hf hexec
  rw [hf.step_eq, State.clearDirty, hexec]
  by_cases hhalt : t.halted = true
  · rw [if_pos hhalt]
    exact State.endCycle_of_halted hhalt
  · rw [if_neg hhalt]
    exact State.endCycle_of_running (Bool.eq_false_iff.mpr hhalt)

/-- Settles O8: the fetch comes before the decoding. -/
theorem fetchAndDecodeFaultsAreFatal : Obligations.FetchAndDecodeFaultsAreFatal := by
  unfold Obligations.FetchAndDecodeFaultsAreFatal
  intro s hrun
  constructor
  · intro hpc
    exact ⟨_, step_of_fetch_eq_error hrun (State.fetch_eq_error hpc), rfl, rfl, rfl⟩
  · intro hpc e hd
    have hop : (BitVec.ofNat 16 s.opAt).toNat = s.opAt := by
      rw [BitVec.toNat_ofNat, Nat.mod_eq_of_lt s.opAt_lt]
    exact ⟨_, step_of_decodeWord_eq_error hrun (State.fetch_eq_ok hpc) hd, rfl, rfl, congrArg some hop⟩

/-- Settles O12: the outcomes of a step, by its latch. -/
theorem cycleHasThreeOutcomes : Obligations.CycleHasThreeOutcomes := by
  unfold Obligations.CycleHasThreeOutcomes
  intro s
  obtain ⟨hhalt, hstep⟩ | ⟨hrun, c, info, hc, hstep⟩ | ⟨i, hf, -, hstep⟩ := step_outcomes s
  · exact ⟨s, hstep, .inl ⟨hhalt, rfl⟩⟩
  · exact ⟨_, hstep, .inr (.inr ⟨hrun, c, info, s.fatal_takes c info, hc⟩)⟩
  · refine ⟨_, hstep, .inr (.inl ⟨hf.running, hf.effect_halted, ?_, ?_⟩)⟩
    · exact effect_faultCause i s.clearDirty
    · exact effect_faultInfo i s.clearDirty

/-! The end of a completed cycle. -/

theorem toNat_tick (b : Byte) : (tick b).toNat = b.toNat - 1 := by
  unfold tick
  split
  · simp [*]
  · bv_omega

/-- A timer after sub-step 5, as a number. -/
theorem toNat_tick_if (c : Bool) (b : Byte) :
    (if c = true then tick b else b).toNat = if c = true then b.toNat - 1 else b.toNat := by
  rw [apply_ite BitVec.toNat, toNat_tick]

@[simp] theorem effect_input (i : Instr) (s : State) : (effect i s).input = s.input := by
  rw [State.input, effect_inputs, effect_draws, State.input]

/-- A cycle whose instruction leaves a running core completes with what the instruction left. -/
theorem State.Fetches.step_of_exec {s u : State} {i : Instr} (h : s.Fetches i) (hexec : exec i s.clearDirty = .next u)
    (hrun : u.halted = false) : step s = .next u.finish.dropInput := by
  rw [h.step_eq, hexec, State.endCycle_of_running hrun]

/-- Settles O10: Execute leaves the inputs of the cycle to the tick. -/
theorem timersTickAfterExecute : Obligations.TimersTickAfterExecute := by
  unfold Obligations.TimersTickAfterExecute
  intro s u i hf hexec hrun
  have hstep := hf.step_of_exec hexec hrun
  obtain ⟨-, rfl⟩ := eq_effect_of_exec hexec hrun
  have hinput : (effect i s.clearDirty).input = s.input := effect_input i s.clearDirty
  refine ⟨_, hstep, ?dt, ?st, rfl, rfl⟩
  all_goals rw [← hinput]
  case dt => exact toNat_tick_if _ _
  case st => exact toNat_tick_if _ _

/-- An instruction that finds `dirty` clear leaves it set exactly if it is CLS or DRAW. -/
theorem effect_dirty_iff {i : Instr} {s : State} (hs : s.dirty = false) :
    (effect i s).dirty = true ↔ i = .cls ∨ ∃ x y n, i = .draw x y n := by
  constructor
  · intro hdirty
    by_contra hother
    obtain ⟨hcls, hdraw⟩ := not_or.mp hother
    have hkept := (effect_fb_dirty s fun x y n => ⟨hcls, fun h => hdraw ⟨x, y, n, h⟩⟩).2
    cases hs.symm.trans (hkept.symm.trans hdirty)
  · rintro (rfl | ⟨x, y, n, rfl⟩) <;> rfl

/-- Settles O11: the cycle cleared `dirty` before Execute. -/
theorem dirtyExactlyAfterClsOrDraw : Obligations.DirtyExactlyAfterClsOrDraw := by
  unfold Obligations.DirtyExactlyAfterClsOrDraw
  intro s t i hf hstep hrun
  cases hown : ownFatal i s.clearDirty with
  | none =>
    cases hstep.symm.trans (hf.step_of_ownFatal_eq_none hown)
    exact effect_dirty_iff rfl
  | some f =>
    cases hstep.symm.trans (hf.step_of_ownFatal_eq_some hown)
    cases hrun

/-! Commands on a halted core (R254). -/

@[simp] theorem perform_cycle_of_halted {s : State} (inp : CycleInputs) (h : s.halted = true) :
    perform (.cycle inp) s = .next s := by
  have hstep : step { s with inputs := inp :: s.inputs } = .next { s with inputs := inp :: s.inputs } :=
    step_of_halted h
  rw [perform, hstep]

/-- Settles O13: a halted core answers itself to a step. -/
theorem haltedCoreIgnoresCycle : Obligations.HaltedCoreIgnoresCycle := by
  unfold Obligations.HaltedCoreIgnoresCycle
  intro s inp h
  exact ⟨step_of_halted h, perform_cycle_of_halted inp h, perform_clearDirty s⟩

/-- Settles O14: a cycle leaves a halted core as it is, and `clear_dirty` leaves its latch. -/
theorem latchStaysUntilReset : Obligations.LatchStaysUntilReset := by
  unfold Obligations.LatchStaysUntilReset
  intro cs
  induction cs with
  | nil =>
    rintro s t hs - ⟨⟩
    exact ⟨hs, rfl, rfl⟩
  | cons c cs ih =>
    intro s t hs hcs hall
    obtain ⟨hc, hrest⟩ := List.forall_mem_cons.mp hcs
    rw [performAll] at hall
    cases c with
    | cycle inp =>
      rw [perform_cycle_of_halted inp hs] at hall
      exact ih s t hs hrest hall
    | clearDirty => exact ih s.clearDirty t hs hrest hall
    | reset rom => exact absurd rfl (hc rom)

end Sys2Proof.Machine
end

section
/-! ### The invariant (spec/10_state.md sections 2, 4, 9) -/

namespace Sys2Proof.Machine

/-! What the invariant says nothing of may change. -/

section
variable {s : State} (h : s.Inv)
include h

theorem State.Inv.clearDirty : s.clearDirty.Inv :=
  ⟨h.mem_wf, h.depth_le, h.halted_latch, h.running_latch, h.pc_le, h.stack_le⟩

theorem State.Inv.finish : s.finish.Inv :=
  ⟨h.mem_wf, h.depth_le, h.halted_latch, h.running_latch, h.pc_le, h.stack_le⟩

theorem State.Inv.withInputs (inps : List CycleInputs) : State.Inv { s with inputs := inps } :=
  ⟨h.mem_wf, h.depth_le, h.halted_latch, h.running_latch, h.pc_le, h.stack_le⟩

theorem State.Inv.dropInput : s.dropInput.Inv := h.withInputs _

end

/-- What a fatal leaves meets the invariant: of a halted core it speaks of memory, depth and latch only. -/
theorem State.fatal_inv (s : State) {c : Fault} (hc : c ≠ .registerOutOfRange) (info : Nat) :
    (s.fatal c info).Inv where
  mem_wf := Memory.ofBytes_wf _
  depth_le := Nat.min_le_right _ _
  halted_latch := fun _ => ⟨c, info, rfl, hc, rfl⟩
  running_latch := nofun
  pc_le := nofun
  stack_le := nofun

/-! An instruction without a fatal keeps the invariant. -/

section
variable {i : Instr} {s : State} (hnone : ownFatal i s = none)
include hnone

theorem effect_mem_wf (hwf : s.mem.wf) : (effect i s).mem.wf := by
  cases i with
  | bcd x =>
    have hrange := (ownFatal_bcd_eq_none_iff x s).mp hnone
    exact Memory.writeList_wf hwf (show s.i.toNat + 3 ≤ 4096 by omega)
  | dump x =>
    have hrange := (ownFatal_dump_eq_none_iff x s).mp hnone
    exact Memory.writeList_wf hwf (by rw [State.length_regsUpTo, State.indexAddr]; omega)
  | _ => exact hwf

theorem effect_depth_le (hdepth : s.depth ≤ config.stackCapacity) : (effect i s).depth ≤ config.stackCapacity := by
  cases i with
  | call nnn => exact (ownFatal_call_eq_none_iff nnn s).mp hnone
  | ret => exact (Nat.sub_le _ _).trans hdepth
  | _ => exact hdepth

/-- A live entry is an old one, or the one that CALL pushed. -/
theorem effect_stackAt {k : Nat} (hk : k < (effect i s).depth) :
    (k < s.depth ∧ (effect i s).stackAt k = s.stackAt k) ∨ (effect i s).stackAt k = s.pc + 2 := by
  cases i with
  | call nnn =>
    have hroom := (ownFatal_call_eq_none_iff nnn s).mp hnone
    have hpush : (effect (.call nnn) s).stackAt k = if k = s.depth then s.pc + 2 else s.stackAt k :=
      State.stackAt_push hroom (s.depth + 1) k
    replace hk : k < s.depth + 1 := hk
    by_cases htop : k = s.depth
    · exact .inr (hpush.trans (if_pos htop))
    · exact .inl ⟨by omega, hpush.trans (if_neg htop)⟩
  | ret => exact .inl ⟨hk.trans_le (Nat.sub_le _ _), rfl⟩
  | _ => exact .inl ⟨hk, rfl⟩

theorem nextPc_le (hpc : s.pc.toNat ≤ 4094) (hstack : ∀ k, k < s.depth → (s.stackAt k).toNat ≤ 4096) :
    nextPc i s ≤ 0x10FE := by
  cases i with
  | jmp nnn | call nnn =>
    have := nnn.isLt
    simp only [nextPc]
    omega
  | ret =>
    have hentry := hstack (s.depth - 1) (Nat.sub_one_lt_of_lt ((ownFatal_ret_eq_none_iff s).mp hnone))
    simp only [nextPc]
    omega
  | jmpv0 nnn =>
    have := nnn.isLt
    have := (s.reg 0).isLt
    simp only [nextPc]
    omega
  | skeqi x nn | sknei x nn | skeqr x y | skner x y | skkd x | skku x | waitk x =>
    simp only [nextPc]
    split <;> omega
  | _ =>
    simp only [nextPc]
    omega

theorem effect_inv (hinv : s.Inv) (hrun : s.halted = false) (hpc : s.pc.toNat ≤ 4094) : (effect i s).Inv where
  mem_wf := effect_mem_wf hnone hinv.mem_wf
  depth_le := effect_depth_le hnone hinv.depth_le
  halted_latch := by
    rw [effect_halted, effect_faultCause, effect_faultInfo]
    exact hinv.halted_latch
  running_latch := by
    rw [effect_halted, effect_faultCause, effect_faultInfo]
    exact hinv.running_latch
  pc_le := fun _ => by
    rw [toNat_effect_pc i hpc]
    exact nextPc_le hnone hpc fun k hk => (hinv.stack_le hrun k hk).2
  stack_le := fun _ k hk => by
    obtain ⟨hlive, hold⟩ | hnew := effect_stackAt hnone hk
    · rw [hold]
      exact hinv.stack_le hrun k hlive
    · rw [hnew, toNat_add_two hpc]
      omega

end

/-- Settles O17: each outcome of a step meets the invariant. -/
theorem stepKeepsInvariant : Obligations.StepKeepsInvariant := by
  unfold Obligations.StepKeepsInvariant
  intro s t hinv hstep
  obtain ⟨-, hself⟩ | ⟨-, c, info, hc, hfatal⟩ | ⟨i, hf, hnone, hdone⟩ := step_outcomes s
  · cases hstep.symm.trans hself
    exact hinv
  · cases hstep.symm.trans hfatal
    exact (s.fatal_inv hc info).dropInput
  · cases hstep.symm.trans hdone
    exact (effect_inv hnone hinv.clearDirty hf.running hf.pc_le).finish.dropInput

/-- A ROM longer than memory above 0x200 is a fatal (R284). -/
theorem State.resetWith_of_too_long (s : State) {rom : List Byte} (h : 3584 < rom.length) :
    s.resetWith rom = State.fatal { State.reset with inputs := s.inputs, draws := s.draws } .memoryOutOfRange
      (0x200 + rom.length - 1) :=
  if_pos h

theorem State.resetWith_inv (s : State) (rom : List Byte) : (s.resetWith rom).Inv := by
  by_cases hfits : rom.length ≤ 3584
  · rw [s.resetWith_of_fits hfits]
    exact {
      mem_wf := Memory.writeList_wf Memory.wf_nil (by omega)
      depth_le := Nat.zero_le _
      halted_latch := nofun
      running_latch := fun _ => ⟨rfl, rfl⟩
      pc_le := fun _ => show State.reset.pc.toNat ≤ 0x10FE by decide
      stack_le := fun _ k hk => absurd hk (Nat.not_lt_zero k) }
  · rw [s.resetWith_of_too_long (not_le.mp hfits)]
    exact State.fatal_inv _ (c := .memoryOutOfRange) nofun _

/-- Settles O16: it is the state after a reset with an empty ROM. -/
theorem resetMeetsInvariant : Obligations.ResetMeetsInvariant := State.resetWith_inv State.reset []

/-- Settles O58: the copy is not begun. -/
theorem longRomHaltsAtReset : Obligations.LongRomHaltsAtReset := by
  unfold Obligations.LongRomHaltsAtReset
  intro s rom hlong
  refine ⟨s.resetWith rom, perform_reset rom s, ?_⟩
  rw [s.resetWith_of_too_long hlong]
  exact State.fatal_takes _ _ _

/-- A cycle command is a step with the command's inputs listed first, and the list put back. -/
theorem perform_cycle_of_step {s t : State} {inp : CycleInputs}
    (h : step { s with inputs := inp :: s.inputs } = .next t) :
    perform (.cycle inp) s = .next { t with inputs := s.inputs } := by
  rw [perform, h]

theorem perform_keeps_inv {c : Command} {s t : State} (hinv : s.Inv) (h : perform c s = .next t) : t.Inv := by
  cases c with
  | cycle inp =>
    obtain ⟨u, hstep, -⟩ := cycleHasThreeOutcomes { s with inputs := inp :: s.inputs }
    cases h.symm.trans (perform_cycle_of_step hstep)
    exact (stepKeepsInvariant _ u (hinv.withInputs _) hstep).withInputs _
  | clearDirty =>
    cases h
    exact hinv.clearDirty
  | reset rom =>
    cases h
    exact s.resetWith_inv rom

theorem performAll_keeps_inv {cs : List Command} {s t : State} (hinv : s.Inv) (h : performAll cs s = .next t) :
    t.Inv := by
  induction cs generalizing s with
  | nil =>
    cases h
    exact hinv
  | cons c cs ih =>
    rw [performAll] at h
    split at h
    case h_1 u hu => exact ih (perform_keeps_inv hinv hu) h
    all_goals cases h

/-- Settles O18: a reset needs no invariant before it, a cycle is a step. -/
theorem everyReachableStateMeetsInvariant : Obligations.EveryReachableStateMeetsInvariant := by
  unfold Obligations.EveryReachableStateMeetsInvariant
  exact ⟨fun c s t hinv h => perform_keeps_inv hinv h, fun cs t h => performAll_keeps_inv resetMeetsInvariant h⟩

end Sys2Proof.Machine
end

section
/-! ### Jumps, calls and returns (spec/41_control_flow.md R140 to R143; spec/70_reset_and_hazards.md section 3) -/

namespace Sys2Proof.Machine

/-- Settles O25: the 16-bit sum of a 12-bit and an 8-bit number does not wrap. -/
theorem jumpWithOffsetIsNotReduced : Obligations.JumpWithOffsetIsNotReduced := by
  unfold Obligations.JumpWithOffsetIsNotReduced
  intro nnn s
  exact ⟨addrWord nnn + byteWord (s.reg 0), exec_of_ownFatal_eq_none rfl, toNat_addrWord_add_byteWord nnn (s.reg 0)⟩

/-- Settles O26: the jump writes to `pc` what it holds. -/
theorem selfJumpOnlyTicks : Obligations.SelfJumpOnlyTicks := by
  unfold Obligations.SelfJumpOnlyTicks
  intro s nnn hf hself
  have hpc : addrWord nnn = s.pc := BitVec.eq_of_toNat_eq ((toNat_addrWord nnn).trans hself.symm)
  rw [hf.step_of_ownFatal_eq_none rfl, effect, hpc]
  rfl

/-- Settles O27: CALL has a fatal exactly if the stack is full. -/
theorem callPushesOrOverflows : Obligations.CallPushesOrOverflows := by
  unfold Obligations.CallPushesOrOverflows
  intro nnn s
  constructor
  · intro hroom
    refine ⟨s.stack.setIfInBounds s.depth (s.pc + 2), ?next, ?top, ?others⟩
    case next =>
      rw [exec_of_ownFatal_eq_none ((ownFatal_call_eq_none_iff nnn s).mpr hroom), ← addrWord_eq_ofNat]
      rfl
    case top => exact Vector.getElem?_setIfInBounds_self_of_lt hroom
    case others => exact fun k hk => Vector.getElem?_setIfInBounds_ne hk.symm
  · intro hfull
    exact ⟨_, exec_of_ownFatal_eq_some (if_neg (by omega)), s.fatal_takes _ _⟩

theorem State.stack_getElem? {s : State} {k : Nat} (h : k < config.stackCapacity) :
    s.stack[k]? = some (s.stackAt k) := by
  rw [State.stackAt, Vector.getElem?_eq_getElem h, Option.getD_some]

/-- Settles O28: RET has a fatal exactly if the stack is empty. -/
theorem retPopsOrUnderflows : Obligations.RetPopsOrUnderflows := by
  unfold Obligations.RetPopsOrUnderflows
  intro s
  constructor
  · intro hpos hcap
    exact ⟨s.stackAt (s.depth - 1), State.stack_getElem? (by omega),
      exec_of_ownFatal_eq_none ((ownFatal_ret_eq_none_iff s).mpr hpos)⟩
  · intro hempty
    exact ⟨_, exec_of_ownFatal_eq_some (if_pos hempty), s.fatal_takes _ _⟩

/-- Settles O29: RET pops the entry that CALL pushed, and CALL wrote no live entry. -/
theorem retComesBackFromCall : Obligations.RetComesBackFromCall := by
  unfold Obligations.RetComesBackFromCall
  intro nnn s t u w hroom hcall hstack hdepth hret
  cases hcall.symm.trans (exec_of_ownFatal_eq_none ((ownFatal_call_eq_none_iff nnn s).mpr hroom))
  replace hdepth : u.depth = s.depth + 1 := hdepth
  cases hret.symm.trans (exec_of_ownFatal_eq_none ((ownFatal_ret_eq_none_iff u).mpr (by omega)))
  have hentry (k : Nat) : u.stackAt k = if k = s.depth then s.pc + 2 else s.stackAt k := by
    rw [State.stackAt, hstack]
    exact State.stackAt_push hroom (s.depth + 1) k
  refine ⟨?pc, ?depth, ?live⟩
  case pc => exact (congrArg u.stackAt (by omega)).trans ((hentry s.depth).trans (if_pos rfl))
  case depth => exact Nat.sub_eq_of_eq_add hdepth
  case live => exact fun k hk => (hentry k).trans (if_neg (by omega))

end Sys2Proof.Machine
end

section
/-! ### The flag producers (spec/42_alu.md sections 3 and 5) -/

namespace Sys2Proof.Machine

@[simp] theorem exec_add (x y : RegIdx) (s : State) : exec (.add x y) s =
    .next (s.setResultAndFlag x (s.reg x + s.reg y) (carry (s.reg x) (s.reg y))).advance := rfl

@[simp] theorem exec_sub (x y : RegIdx) (s : State) : exec (.sub x y) s =
    .next (s.setResultAndFlag x (s.reg x - s.reg y) (exceeds (s.reg x) (s.reg y))).advance := rfl

@[simp] theorem exec_rsub (x y : RegIdx) (s : State) : exec (.rsub x y) s =
    .next (s.setResultAndFlag x (s.reg y - s.reg x) (exceeds (s.reg y) (s.reg x))).advance := rfl

theorem flagByte_decide (p : Prop) [Decidable p] : flagByte (decide p) = if p then 1 else 0 := by
  simp only [flagByte, decide_eq_true_eq]

/-- Settles O34: the sum of two bytes wraps at 256, and `carry` tells when. -/
theorem addSetsCarry : Obligations.AddSetsCarry := by
  unfold Obligations.AddSetsCarry
  intro x y s hx
  rw [← byte_eq_ofNat_of_toNat (BitVec.toNat_add (s.reg x) (s.reg y)), ← flagByte_decide]
  exact writesWithFlag_of_setResultAndFlag hx (exec_add x y s)

theorem sub_eq_ofNat (a b : Byte) : a - b = BitVec.ofNat 8 ((a.toNat + 256 - b.toNat) % 256) :=
  byte_eq_ofNat_of_toNat (by have := b.isLt; rw [BitVec.toNat_sub]; omega)

/-- Settles O35: both are one subtraction, of which `exceeds` compares the operands. -/
theorem subtractSetsStrictFlag : Obligations.SubtractSetsStrictFlag := by
  unfold Obligations.SubtractSetsStrictFlag
  intro x y s hx
  rw [← sub_eq_ofNat, ← sub_eq_ofNat, ← flagByte_decide, ← flagByte_decide]
  exact ⟨writesWithFlag_of_setResultAndFlag hx (exec_sub x y s),
    writesWithFlag_of_setResultAndFlag hx (exec_rsub x y s)⟩

/-- A flag producer is the write of a result and a flag. -/
theorem exec_flagProducer {x y : RegIdx} {i : Instr} (s : State) (h : i ∈ flagProducers x y) :
    ∃ b c, exec i s = .next (s.setResultAndFlag x b c).advance := by
  simp only [flagProducers, List.mem_cons, List.not_mem_nil, or_false] at h
  obtain rfl | rfl | rfl | rfl | rfl := h
  · exact ⟨_, _, exec_add x y s⟩
  · exact ⟨_, _, exec_sub x y s⟩
  · exact ⟨_, _, exec_shr x y s⟩
  · exact ⟨_, _, exec_rsub x y s⟩
  · exact ⟨_, _, exec_shl x y s⟩

/-- Settles O37: with X = 15 result and flag both go to VF. -/
theorem flagProducersRunOnRegister15 : Obligations.FlagProducersRunOnRegister15 := by
  unfold Obligations.FlagProducersRunOnRegister15
  intro y s i hi
  obtain ⟨b, c, hexec⟩ := exec_flagProducer s hi
  refine ⟨(s.setResultAndFlag vf b c).v, ?_, fun r hr => ?_⟩
  · rw [hexec, s.setResultAndFlag_eq]
    rfl
  · exact (s.reg_setResultAndFlag_vf b c r).trans (if_neg hr)

end Sys2Proof.Machine
end

section
/-! ### Keys, timers and the font (spec/45_keys_timers.md R230 to R235; spec/43_index_memory.md R192) -/

namespace Sys2Proof.Machine

@[simp] theorem exec_waitk (x : RegIdx) (s : State) : exec (.waitk x) s = .next (s.takeKey x s.input.lastKey) := rfl

@[simp] theorem exec_rddt (x : RegIdx) (s : State) : exec (.rddt x) s = .next (s.setReg x s.dt).advance := rfl

@[simp] theorem exec_wrdt (x : RegIdx) (s : State) : exec (.wrdt x) s = .next { s with dt := s.reg x }.advance := rfl

@[simp] theorem exec_wrst (x : RegIdx) (s : State) : exec (.wrst x) s = .next { s with st := s.reg x }.advance := rfl

/-- Settles O52: both are a skip on the same bit of the keypad, with the same fatal. -/
theorem keySkipsFollowKeypad : Obligations.KeySkipsFollowKeypad := by
  unfold Obligations.KeySkipsFollowKeypad
  intro x s
  constructor
  · intro hkey
    rw [exec_of_ownFatal_eq_none ((ownFatal_skkd_eq_none_iff x s).mpr hkey),
      exec_of_ownFatal_eq_none ((ownFatal_skku_eq_none_iff x s).mpr hkey), effect, effect,
      s.skipIf_eq_of_iff Iff.rfl, s.skipIf_eq_of_iff (Bool.not_eq_true' _).to_iff]
    exact ⟨rfl, rfl⟩
  · intro hkey
    exact ⟨⟨_, exec_of_ownFatal_eq_some (if_pos hkey), s.fatal_takes _ _⟩,
      _, exec_of_ownFatal_eq_some (if_pos hkey), s.fatal_takes _ _⟩

/-- Settles O53: with a key WAITK is one register write. -/
theorem waitKeyTakesKeyOrStays : Obligations.WaitKeyTakesKeyOrStays := by
  unfold Obligations.WaitKeyTakesKeyOrStays
  intro x s
  constructor
  · intro k hk
    exact writesOnly_of_setReg (by rw [exec_waitk, hk]; rfl)
  · intro hnone
    rw [exec_waitk, hnone]
    rfl

/-- Settles O54: one write each. -/
theorem timerInstructionsMoveValues : Obligations.TimerInstructionsMoveValues := by
  unfold Obligations.TimerInstructionsMoveValues
  intro x s
  exact ⟨writesOnly_of_setReg (exec_rddt x s), exec_wrdt x s, exec_wrst x s⟩

/-- Settles O55: the tick finds the timers as the instruction left them. -/
theorem timerWriteThenTickInOneCycle : Obligations.TimerWriteThenTickInOneCycle := by
  unfold Obligations.TimerWriteThenTickInOneCycle
  intro x s
  constructor
  · intro hf
    exact ⟨_, hf.step_of_ownFatal_eq_none rfl, rfl, toNat_tick_if _ _, toNat_tick_if _ _⟩
  · intro hf
    exact ⟨_, hf.step_of_ownFatal_eq_none rfl, rfl, toNat_tick_if _ _, toNat_tick_if _ _⟩

/-- The font lies in memory, so a glyph's address is not reduced (R192). -/
theorem toNat_glyphAddr {d : Nat} (h : d ≤ 15) : (glyphAddr d).toNat = config.fontBase + 5 * d := by
  have := fontBase_add_lt (k := 79) (by norm_num)
  rw [glyphAddr, BitVec.toNat_ofNat]
  omega

/-- Settles O41: FONT has a fatal exactly for a digit above 15. -/
theorem fontPointsAtGlyphOrFaults : Obligations.FontPointsAtGlyphOrFaults := by
  unfold Obligations.FontPointsAtGlyphOrFaults
  intro x s
  constructor
  · intro hdigit
    exact ⟨glyphAddr (s.reg x).toNat, exec_of_ownFatal_eq_none ((ownFatal_font_eq_none_iff x s).mpr hdigit),
      toNat_glyphAddr hdigit⟩
  · intro hdigit
    exact ⟨_, exec_of_ownFatal_eq_some (if_pos hdigit), s.fatal_takes _ _⟩

end Sys2Proof.Machine
end

section
/-! ### Reset's own values, and the inputs of a cycle command (spec/70_reset_and_hazards.md R283; R121) -/

namespace Sys2Proof.Machine

theorem Memory.unlisted_outside_font {a : Nat} (h : a < config.fontBase ∨ config.fontBase + 80 ≤ a) :
    Memory.unlisted a = 0 := by
  obtain ⟨-, -, hlength⟩ := config_ok
  unfold Memory.unlisted
  split
  · exact List.getD_eq_default _ _ (by omega)
  · rfl

/-- Settles O57: all but the memory are the values of the fixed reset state. -/
theorem resetLeavesChosenValues : Obligations.ResetLeavesChosenValues := by
  unfold Obligations.ResetLeavesChosenValues
  intro s rom hfits
  refine ⟨s.resetWith rom, perform_reset rom s, ?_⟩
  have hmem (a : Nat) (hfont : a < config.fontBase ∨ config.fontBase + 80 ≤ a)
      (hrom : a < 0x200 ∨ 0x200 + rom.length ≤ a) : (s.resetWith rom).mem.read a = 0 := by
    rw [s.read_mem_resetWith hfits, if_neg (by omega), Memory.unlisted_outside_font hfont]
  have hreg (r : RegIdx) : State.reset.reg r = 0 := Vector.getElem_replicate _
  have hstack (k : Nat) : State.reset.stackAt k = 0 := by
    rw [State.stackAt, State.reset, Vector.getElem?_replicate]
    split <;> rfl
  rw [s.resetWith_of_fits hfits] at hmem ⊢
  exact ⟨hreg, rfl, rfl, rfl, rfl, hstack, rfl, rfl, rfl, rfl, fun a _ => hmem a⟩

/-- Of the listed inputs a completed cycle reads the first, and drops it. -/
theorem finish_effect_withRestOfInputs (i : Instr) (s : State) (inp : CycleInputs) (l l' : List CycleInputs) :
    (effect i { s with inputs := inp :: l' }).finish.dropInput =
      { (effect i { s with inputs := inp :: l }).finish.dropInput with inputs := l' } := by
  cases i <;> rfl

/-- Of the listed inputs a step of a running core reads the first, and drops it. -/
theorem step_withRestOfInputs {s t : State} {inp : CycleInputs} {l : List CycleInputs} (l' : List CycleInputs)
    (hrun : s.halted = false) (h : step { s with inputs := inp :: l } = .next t) :
    step { s with inputs := inp :: l' } = .next { t with inputs := l' } := by
  by_cases hpc : s.pc.toNat ≤ 4094
  · cases hd : decodeWord (BitVec.ofNat 16 s.opAt) with
    | error e =>
      cases h.symm.trans (step_of_decodeWord_eq_error hrun (State.fetch_eq_ok hpc) hd)
      exact step_of_decodeWord_eq_error hrun (State.fetch_eq_ok hpc) hd
    | ok i =>
      have hf (l : List CycleInputs) : State.Fetches { s with inputs := inp :: l } i :=
        State.fetches_iff.mpr ⟨hrun, hpc, hd⟩
      have hown (l : List CycleInputs) := ownFatal_withInputs i s.clearDirty (inp :: l)
      cases hfatal : ownFatal i s.clearDirty with
      | none =>
        cases h.symm.trans ((hf l).step_of_ownFatal_eq_none ((hown l).trans hfatal))
        exact ((hf l').step_of_ownFatal_eq_none ((hown l').trans hfatal)).trans
          (congrArg Host.Outcome.next (finish_effect_withRestOfInputs i s.clearDirty inp l l'))
      | some f =>
        cases h.symm.trans ((hf l).step_of_ownFatal_eq_some ((hown l).trans hfatal))
        exact (hf l').step_of_ownFatal_eq_some ((hown l').trans hfatal)
  · have hfetch := State.fetch_eq_error (s := s) (by omega)
    cases h.symm.trans (step_of_fetch_eq_error hrun hfetch)
    exact step_of_fetch_eq_error hrun hfetch

/-- Settles O60: a running core's step reads of the list only the first, which the command puts there. -/
theorem cycleCommandPresentsItsInputs : Obligations.CycleCommandPresentsItsInputs := by
  unfold Obligations.CycleCommandPresentsItsInputs
  intro s inp
  refine ⟨rfl, fun t => perform_cycle_of_step, fun inps t h => ?_⟩
  by_cases hhalt : s.halted = true
  · cases h.symm.trans (perform_cycle_of_halted inp hhalt)
    exact perform_cycle_of_halted inp hhalt
  · obtain ⟨u, hstep, -⟩ := cycleHasThreeOutcomes { s with inputs := inp :: s.inputs }
    cases h.symm.trans (perform_cycle_of_step hstep)
    have hstep' := step_withRestOfInputs inps (Bool.eq_false_iff.mpr hhalt) hstep
    exact perform_cycle_of_step (s := { s with inputs := inps }) (t := { u with inputs := inps }) hstep'

end Sys2Proof.Machine
end

section
/-! ### BCD, DUMP and LOAD (spec/43_index_memory.md R193 to R195; spec/20_memory.md section 6) -/

namespace Sys2Proof.Machine

theorem State.getD_regsUpTo (s : State) {x k : RegIdx} (hk : k ≤ x) : (s.regsUpTo x).getD k.val 0 = s.reg k := by
  have hlt : k.val < x.val + 1 := Nat.lt_succ_of_le hk
  simp [State.regsUpTo, State.reg, List.getD_eq_getElem?_getD, hlt]

/-! What a byte of memory is after BCD and DUMP. -/

section
variable {x : RegIdx} {s : State} (hwf : s.mem.wf)
include hwf

theorem read_effect_bcd (hrange : s.i.toNat + 2 ≤ 4095) (a : Nat) :
    (effect (.bcd x) s).mem.read a =
      if s.i.toNat ≤ a ∧ a < s.i.toNat + 3 then (bcdDigits (s.reg x)).getD (a - s.i.toNat) 0 else s.mem.read a :=
  Memory.read_writeList hwf (show s.i.toNat + 3 ≤ 4096 by omega) a

theorem read_effect_bcd_outside (hrange : s.i.toNat + 2 ≤ 4095) {a : Nat} (ha : a < s.i.toNat ∨ s.i.toNat + 2 < a) :
    (effect (.bcd x) s).mem.read a = s.mem.read a := by
  rw [read_effect_bcd hwf hrange, if_neg (by omega)]

theorem read_effect_bcd_hundreds (hrange : s.i.toNat + 2 ≤ 4095) :
    ((effect (.bcd x) s).mem.read s.i.toNat).toNat = (s.reg x).toNat / 100 := by
  have hbyte := (s.reg x).isLt
  rw [read_effect_bcd hwf hrange, if_pos (by omega), Nat.sub_self]
  exact (BitVec.toNat_ofNat _ 8).trans (Nat.mod_eq_of_lt (by omega))

theorem read_effect_bcd_tens (hrange : s.i.toNat + 2 ≤ 4095) :
    ((effect (.bcd x) s).mem.read (s.i.toNat + 1)).toNat = (s.reg x).toNat / 10 % 10 := by
  rw [read_effect_bcd hwf hrange, if_pos (by omega), Nat.add_sub_cancel_left]
  exact (BitVec.toNat_ofNat _ 8).trans (Nat.mod_eq_of_lt (by omega))

theorem read_effect_bcd_ones (hrange : s.i.toNat + 2 ≤ 4095) :
    ((effect (.bcd x) s).mem.read (s.i.toNat + 2)).toNat = (s.reg x).toNat % 10 := by
  rw [read_effect_bcd hwf hrange, if_pos (by omega), Nat.add_sub_cancel_left]
  exact (BitVec.toNat_ofNat _ 8).trans (Nat.mod_eq_of_lt (by omega))

theorem read_effect_dump (hrange : s.i.toNat + x.val ≤ 4095) (a : Nat) :
    (effect (.dump x) s).mem.read a =
      if s.i.toNat ≤ a ∧ a < s.i.toNat + (x.val + 1) then (s.regsUpTo x).getD (a - s.i.toNat) 0
      else s.mem.read a := by
  rw [← s.length_regsUpTo x]
  exact Memory.read_writeList hwf (by rw [State.length_regsUpTo, State.indexAddr]; omega) a

theorem read_effect_dump_outside (hrange : s.i.toNat + x.val ≤ 4095) {a : Nat}
    (ha : a < s.i.toNat ∨ s.i.toNat + x.val < a) : (effect (.dump x) s).mem.read a = s.mem.read a := by
  rw [read_effect_dump hwf hrange, if_neg (by omega)]

theorem read_effect_dump_reg (hrange : s.i.toNat + x.val ≤ 4095) {k : RegIdx} (hk : k ≤ x) :
    (effect (.dump x) s).mem.read (s.i.toNat + k.val) = s.reg k := by
  have hval : k.val ≤ x.val := hk
  rw [read_effect_dump hwf hrange, if_pos (by omega), Nat.add_sub_cancel_left, s.getD_regsUpTo hk]

end

/-- A register after LOAD: the byte at its place, or its old value. -/
theorem reg_effect_load (x k : RegIdx) (s : State) :
    (effect (.load x) s).reg k = if k ≤ x then s.mem.read (s.i.toNat + k.val) else s.reg k := by
  refine (s.reg_setRegs _ k).trans ?_
  by_cases hk : k ≤ x
  · rw [if_pos hk]
    exact Memory.getD_readList s.mem _ (Nat.lt_succ_of_le hk) _
  · rw [if_neg hk]
    refine List.getD_eq_default _ _ ?_
    rw [Memory.length_readList]
    exact not_le.mp hk

/-- Settles O42: BCD has a fatal exactly if its last address is outside memory. -/
theorem bcdStoresThreeDigits : Obligations.BcdStoresThreeDigits := by
  unfold Obligations.BcdStoresThreeDigits
  intro x s hwf
  constructor
  · intro hrange
    exact ⟨(effect (.bcd x) s).mem, exec_of_ownFatal_eq_none ((ownFatal_bcd_eq_none_iff x s).mpr hrange),
      read_effect_bcd_hundreds hwf hrange, read_effect_bcd_tens hwf hrange, read_effect_bcd_ones hwf hrange,
      fun a => read_effect_bcd_outside hwf hrange⟩
  · intro hrange
    exact ⟨_, exec_of_ownFatal_eq_some (if_pos hrange), s.fatal_takes _ _⟩

/-- Settles O43: the same of DUMP. -/
theorem dumpStoresRegisters : Obligations.DumpStoresRegisters := by
  unfold Obligations.DumpStoresRegisters
  intro x s hwf
  constructor
  · intro hrange
    exact ⟨(effect (.dump x) s).mem, exec_of_ownFatal_eq_none ((ownFatal_dump_eq_none_iff x s).mpr hrange),
      fun k => read_effect_dump_reg hwf hrange, fun a => read_effect_dump_outside hwf hrange⟩
  · intro hrange
    exact ⟨_, exec_of_ownFatal_eq_some (if_pos hrange), s.fatal_takes _ _⟩

/-- Settles O44: the same of LOAD. -/
theorem loadReadsRegisters : Obligations.LoadReadsRegisters := by
  unfold Obligations.LoadReadsRegisters
  intro x s
  constructor
  · intro hrange
    exact ⟨(effect (.load x) s).v, exec_of_ownFatal_eq_none ((ownFatal_load_eq_none_iff x s).mpr hrange),
      fun k => reg_effect_load x k s⟩
  · intro hrange
    exact ⟨_, exec_of_ownFatal_eq_some (if_pos hrange), s.fatal_takes _ _⟩

/-- Settles O45: LOAD reads the bytes where DUMP wrote them. -/
theorem loadBringsBackDump : Obligations.LoadBringsBackDump := by
  unfold Obligations.LoadBringsBackDump
  intro x s t u w hwf hrange hdump hmem hi hload k hk
  cases hdump.symm.trans (exec_of_ownFatal_eq_none ((ownFatal_dump_eq_none_iff x s).mpr hrange))
  replace hi : u.i = s.i := hi
  cases hload.symm.trans (exec_of_ownFatal_eq_none ((ownFatal_load_eq_none_iff x u).mpr (hi ▸ hrange)))
  rw [reg_effect_load, if_pos hk, hmem, hi, read_effect_dump_reg hwf hrange hk]

/-! A stored word that is the next to be fetched. -/

/-- What a completed cycle leaves of memory and `pc` is what its instruction left. -/
theorem State.Fetches.of_step {s t : State} {i : Instr} (hf : s.Fetches i) (hnone : ownFatal i s.clearDirty = none)
    (hstep : step s = .next t) :
    t.halted = false ∧ t.mem = (effect i s.clearDirty).mem ∧ t.pc = (effect i s.clearDirty).pc := by
  cases hstep.symm.trans (hf.step_of_ownFatal_eq_none hnone)
  exact ⟨hf.effect_halted, rfl, rfl⟩

theorem State.opAt_eq {t : State} {a hi lo : Nat} (hpc : t.pc.toNat = a) (hhi : (t.mem.read a).toNat = hi)
    (hlo : (t.mem.read (a + 1)).toNat = lo) : t.opAt = hi * 256 + lo := by
  rw [State.opAt, hpc, hhi, hlo]

/-- No two decimal digits are an instruction, as no word below 0x0300 but CLS and RET is one (R95). -/
theorem illegalWord_of_digits {h t : Nat} (hh : h ≤ 2) (ht : t ≤ 9) :
    IllegalWord (BitVec.ofNat 16 (h * 256 + t)) := by
  refine .inl ?_
  rw [BitVec.toNat_ofNat]
  omega

/-- Settles O46: the address of the next fetch is where the store put the two bytes. -/
theorem plantedWordIsFetchedNext : Obligations.PlantedWordIsFetchedNext := by
  unfold Obligations.PlantedWordIsFetchedNext
  constructor
  · intro x k s t hwf hf hk hplace hrange hstep
    have hnone := (ownFatal_dump_eq_none_iff x s.clearDirty).mpr hrange
    obtain ⟨hrun, hmem, hpc⟩ := hf.of_step hnone hstep
    have hpc2 : t.pc.toNat = s.i.toNat + k.val := by
      rw [hpc, hplace]
      exact toNat_add_two hf.pc_le
    have hsucc : (k + 1).val = k.val + 1 := Fin.val_add_one_of_lt' (by omega)
    have hhi : t.mem.read (s.i.toNat + k.val) = s.reg k := by
      rw [hmem]
      exact read_effect_dump_reg (s := s.clearDirty) hwf hrange (Fin.le_def.mpr (by omega))
    have hlo : t.mem.read (s.i.toNat + k.val + 1) = s.reg (k + 1) := by
      rw [hmem, Nat.add_assoc, ← hsucc]
      exact read_effect_dump_reg (s := s.clearDirty) hwf hrange (Fin.le_def.mpr (by omega))
    have htop : t.pc.toNat ≤ 4094 := by omega
    refine ⟨hrun, ?fetch, fun i hi => ⟨hrun, htop, ?decode⟩⟩
    case fetch =>
      rw [State.fetch_eq_ok htop, State.opAt_eq hpc2 (congrArg BitVec.toNat hhi) (congrArg BitVec.toNat hlo)]
    case decode => rw [hpc2, hhi, hlo, hi]
  · intro x s t hwf hf hplace hrange hstep
    have hnone := (ownFatal_bcd_eq_none_iff x s.clearDirty).mpr hrange
    obtain ⟨hrun, hmem, hpc⟩ := hf.of_step hnone hstep
    have hpc2 : t.pc.toNat = s.i.toNat := by
      rw [hpc, hplace]
      exact toNat_add_two hf.pc_le
    have hop : t.opAt = (s.reg x).toNat / 100 * 256 + (s.reg x).toNat / 10 % 10 := by
      refine State.opAt_eq hpc2 ?_ ?_ <;> rw [hmem]
      · exact read_effect_bcd_hundreds (s := s.clearDirty) hwf hrange
      · exact read_effect_bcd_tens (s := s.clearDirty) hwf hrange
    have hill : IllegalWord (BitVec.ofNat 16 t.opAt) := by
      have hbyte := (s.reg x).isLt
      rw [hop]
      exact illegalWord_of_digits (by omega) (by omega)
    have hunknown := (unknownWordsAreExactlyListed _).1.mp hill
    have htop : t.pc.toNat ≤ 4094 := by omega
    rw [← hop]
    exact ⟨hrun, State.fetch_eq_ok htop, (fetchAndDecodeFaultsAreFatal t hrun).2 htop _ hunknown⟩

end Sys2Proof.Machine
end

section
/-! ### DRAW (spec/44_display.md R211 to R215) -/

namespace Sys2Proof.Machine

/-- From `d` to `d'` the pixels of `P` were drawn, each once: they are inverted, no other is, and a collision is
reported exactly if one was before or one of them was set (R212, R214). -/
structure Blit.Draws (d d' : Blit) (P : Fin 64 → Fin 32 → Prop) : Prop where
  pixel : ∀ x y, d'.fb.pixel x y = true ↔ ¬ (d.fb.pixel x y = true ↔ P x y)
  collision : d'.collision = true ↔ d.collision = true ∨ ∃ x y, d.fb.pixel x y = true ∧ P x y

namespace Blit.Draws

variable {d d' d'' : Blit} {P Q : Fin 64 → Fin 32 → Prop}

theorem nothing (d : Blit) (hP : ∀ x y, ¬ P x y) : d.Draws d P where
  pixel x y := by simp [hP]
  collision := by simp [hP]

/-- One drawing after another that has no pixel in common with it. -/
theorem trans (h : d.Draws d' P) (h' : d'.Draws d'' Q) (hdisj : ∀ x y, P x y → ¬ Q x y) :
    d.Draws d'' fun x y => P x y ∨ Q x y where
  pixel x y := by
    have hPQ := hdisj x y
    rw [h'.pixel, h.pixel]
    tauto
  collision := by
    have hmet (x : Fin 64) (y : Fin 32) :
        (d'.fb.pixel x y = true ∧ Q x y) ↔ (d.fb.pixel x y = true ∧ Q x y) := by
      have hPQ := hdisj x y
      rw [h.pixel]
      tauto
    simp only [h'.collision, h.collision, hmet, and_or_left, exists_or, or_assoc]

theorem congr (h : d.Draws d' P) (hPQ : ∀ x y, P x y ↔ Q x y) : d.Draws d' Q := by
  obtain rfl : P = Q := funext fun x => funext fun y => propext (hPQ x y)
  exact h

/-- The same pixels drawn again: every pixel is as before both, and the pixels that the second drawing met are those
that were clear before the first. -/
theorem again {e e' : Blit} (h : d.Draws d' P) (h' : e.Draws e' P) (he : e.fb = d'.fb) :
    (∀ x y, e'.fb.pixel x y = d.fb.pixel x y) ∧
      ((∃ x y, e.fb.pixel x y = true ∧ P x y) ↔ ∃ x y, d.fb.pixel x y = false ∧ P x y) := by
  constructor
  · intro x y
    rw [Bool.eq_iff_iff, h'.pixel, he, h.pixel]
    tauto
  · refine exists_congr fun x => exists_congr fun y => and_congr_left fun hP => ?_
    rw [he, h.pixel, iff_true_right hP, Bool.not_eq_true]

end Blit.Draws

theorem Blit.putBit_draws (d : Blit) (x : Fin 64) (y : Fin 32) (bit : Bool) :
    d.Draws (d.putBit x y bit) fun cx cy => cx = x ∧ cy = y ∧ bit = true where
  pixel cx cy := by
    rw [Blit.putBit_fb, Framebuffer.pixel_setPixel]
    by_cases hat : cx = x ∧ cy = y
    · obtain ⟨rfl, rfl⟩ := hat
      cases bit <;> cases d.fb.pixel cx cy <;> simp
    · have hnot : ¬ (cx = x ∧ cy = y ∧ bit = true) := fun ⟨hx, hy, _⟩ => hat ⟨hx, hy⟩
      simp [hat, hnot]
  collision := by
    cases bit <;> simp

/-- The first `k` bits of a row byte, drawn from column `x0` on row `y`, have a set bit on the pixel `(cx, cy)`. -/
def RowCovers (row : Byte) (k x0 : Nat) (y : Fin 32) (cx : Fin 64) (cy : Fin 32) : Prop :=
  ∃ b, b < k ∧ cx.val = (x0 + b) % 64 ∧ cy = y ∧ spriteBit row b = true

/-- At most 64 bits of a row are on different columns, also where they wrap. -/
theorem Blit.foldl_putBit_draws (d : Blit) (row : Byte) (x0 : Nat) (y : Fin 32) {k : Nat} (hk : k ≤ 64) :
    d.Draws ((List.range k).foldl (fun d b => d.putBit (Fin.ofNat 64 (x0 + b)) y (spriteBit row b)) d)
      (RowCovers row k x0 y) := by
  induction k with
  | zero => exact .nothing d fun cx cy ⟨b, hb, _⟩ => absurd hb (Nat.not_lt_zero b)
  | succ k ih =>
    rw [List.range_succ, List.foldl_append]
    refine ((ih (by omega)).trans (Blit.putBit_draws _ _ _ _) ?disjoint).congr ?covers
    case disjoint =>
      rintro cx cy ⟨b, hb, hcx, -⟩ ⟨rfl, -⟩
      simp only [Fin.val_ofNat] at hcx
      omega
    case covers =>
      intro cx cy
      have hcol : cx = Fin.ofNat 64 (x0 + k) ↔ cx.val = (x0 + k) % 64 := Fin.ext_iff
      simp only [RowCovers, Nat.lt_succ_iff_lt_or_eq, or_and_right, exists_or, exists_eq_left, hcol]

theorem Blit.putRow_draws (d : Blit) (x0 : Nat) (y : Fin 32) (row : Byte) :
    d.Draws (d.putRow x0 y row) (RowCovers row 8 x0 y) :=
  d.foldl_putBit_draws row x0 y (by norm_num)

theorem Memory.readList_succ (m : Memory) (a n : Nat) : m.readList a (n + 1) = m.read a :: m.readList (a + 1) n := by
  simp [Memory.readList, List.range_succ_eq_map, Function.comp_def, Nat.add_assoc, Nat.add_comm 1]

/-- A sprite is its first row and the sprite of the rows after it. -/
theorem spriteCovers_succ {m : Memory} {base n x0 y0 : Nat} {cx : Fin 64} {cy : Fin 32} :
    SpriteCovers m base (n + 1) x0 y0 cx cy ↔
      RowCovers (m.read base) 8 x0 (Fin.ofNat 32 y0) cx cy ∨ SpriteCovers m (base + 1) n x0 (y0 + 1) cx cy := by
  have hrow : cy = Fin.ofNat 32 y0 ↔ cy.val = y0 % 32 := Fin.ext_iff
  constructor
  · rintro ⟨r, b, hr, hb, hcx, hcy, hbit⟩
    cases r with
    | zero => exact .inl ⟨b, hb, hcx, hrow.mpr hcy, hbit⟩
    | succ r =>
      rw [show base + (r + 1) = base + 1 + r by omega] at hbit
      exact .inr ⟨r, b, by omega, hb, hcx, by omega, hbit⟩
  · rintro (⟨b, hb, hcx, hcy, hbit⟩ | ⟨r, b, hr, hb, hcx, hcy, hbit⟩)
    · exact ⟨0, b, by omega, hb, hcx, hrow.mp hcy, hbit⟩
    · rw [show base + 1 + r = base + (r + 1) by omega] at hbit
      exact ⟨r + 1, b, by omega, hb, hcx, by omega, hbit⟩

/-- At most 32 rows of a sprite are on different rows of the display, also where they wrap. -/
theorem Blit.putRows_draws (d : Blit) (m : Memory) (base x0 y : Nat) {n : Nat} (hn : n ≤ 32) :
    d.Draws (d.putRows x0 y (m.readList base n)) (SpriteCovers m base n x0 y) := by
  induction n generalizing d base y with
  | zero => exact .nothing d fun cx cy ⟨r, _, hr, _⟩ => absurd hr (Nat.not_lt_zero r)
  | succ n ih =>
    rw [Memory.readList_succ]
    have hrest := ih (d.putRow x0 (Fin.ofNat 32 y) (m.read base)) (base + 1) (y + 1) (by omega)
    refine ((d.putRow_draws x0 (Fin.ofNat 32 y) (m.read base)).trans hrest ?disjoint).congr ?covers
    case disjoint =>
      rintro cx cy ⟨-, -, -, rfl, -⟩ ⟨r, -, hr, -, -, hcy, -⟩
      simp only [Fin.val_ofNat] at hcy
      omega
    case covers => exact fun cx cy => spriteCovers_succ.symm

/-- What DRAW does to framebuffer and VF, as a drawing of its sprite that starts without a collision. -/
theorem effect_draw_draws (x y : RegIdx) (n : Nibble) (s : State) : ∃ d : Blit,
    Blit.Draws { fb := s.fb, collision := false } d
      (SpriteCovers s.mem s.i.toNat n.toNat (s.reg x).toNat (s.reg y).toNat) ∧
    (effect (.draw x y n) s).fb = d.fb ∧ (effect (.draw x y n) s).reg vf = flagByte d.collision :=
  ⟨_, Blit.putRows_draws _ s.mem s.i.toNat _ _ (by have := n.isLt; omega), rfl, State.reg_setReg_same _ vf _⟩

theorem flagByte_eq_one_iff {c : Bool} : flagByte c = 1 ↔ c = true := by
  cases c <;> decide

theorem flagByte_eq_zero_iff {c : Bool} : flagByte c = 0 ↔ c = false := by
  cases c <;> decide

/-- Settles O48: every pixel of the sprite is drawn once, and DRAW starts without a collision. -/
theorem drawXorsSpriteAndReportsCollision : Obligations.DrawXorsSpriteAndReportsCollision := by
  unfold Obligations.DrawXorsSpriteAndReportsCollision
  intro x y n s hrange
  obtain ⟨d, hdraws, hfb, hvf⟩ := effect_draw_draws x y n s
  have hcollision := hdraws.collision
  simp only [Bool.false_eq_true, false_or] at hcollision
  refine ⟨(effect (.draw x y n) s).fb, (effect (.draw x y n) s).v,
    exec_of_ownFatal_eq_none ((ownFatal_draw_eq_none_iff x y n s).mpr hrange), ?pixel, ?met, ?notMet, ?others⟩
  case pixel => exact hfb ▸ hdraws.pixel
  case met => exact fun hmet => hvf.trans (flagByte_eq_one_iff.mpr (hcollision.mpr hmet))
  case notMet =>
    exact fun hmet => hvf.trans (flagByte_eq_zero_iff.mpr (Bool.eq_false_iff.mpr (mt hcollision.mp hmet)))
  case others => exact fun r hr => effect_reg (i := .draw x y n) (beq_eq_false_iff_ne.mpr hr)

/-- Settles O49: the fatal by the number of rows; without rows nothing is put on the display. -/
theorem drawOutsideMemoryFaults : Obligations.DrawOutsideMemoryFaults := by
  unfold Obligations.DrawOutsideMemoryFaults
  intro x y n s
  refine ⟨?rows, ?noRows, ?nothing⟩
  case rows =>
    intro hn hout
    have hn' : n.toNat ≠ 0 := fun h => hn (BitVec.eq_of_toNat_eq h)
    exact ⟨_, exec_of_ownFatal_eq_some ((if_neg hn').trans (if_pos hout)), s.fatal_takes _ _⟩
  case noRows =>
    rintro rfl hout
    exact ⟨_, exec_of_ownFatal_eq_some (if_pos hout), s.fatal_takes _ _⟩
  case nothing =>
    rintro rfl hin
    have hrange : SpriteInRange s.i.toNat 0 := ⟨hin, by omega⟩
    exact ⟨(effect (.draw x y 0) s).v, exec_of_ownFatal_eq_none ((ownFatal_draw_eq_none_iff x y 0 s).mpr hrange),
      State.reg_setReg_same _ vf _, fun r hr => effect_reg (i := .draw x y 0) (beq_eq_false_iff_ne.mpr hr)⟩

theorem Framebuffer.ext_pixel {fb fb' : Framebuffer} (h : ∀ x y, fb.pixel x y = fb'.pixel x y) : fb = fb' :=
  Vector.ext fun y hy => Vector.ext fun x hx => h ⟨x, hx⟩ ⟨y, hy⟩

/-- Settles O50: the second drawing inverts the same pixels again, and meets those that the first one lit. -/
theorem drawingTwiceRestoresDisplay : Obligations.DrawingTwiceRestoresDisplay := by
  unfold Obligations.DrawingTwiceRestoresDisplay
  intro x y n s t u hx hy hrange hfirst hsecond
  have ht : t = effect (.draw x y n) s := Host.Outcome.next.inj
    (hfirst.symm.trans (exec_of_ownFatal_eq_none ((ownFatal_draw_eq_none_iff x y n s).mpr hrange)))
  have hmem : t.mem = s.mem := by rw [ht]; rfl
  have hi : t.i = s.i := by rw [ht]; rfl
  have hregx : t.reg x = s.reg x := by rw [ht]; exact effect_reg (beq_eq_false_iff_ne.mpr hx)
  have hregy : t.reg y = s.reg y := by rw [ht]; exact effect_reg (beq_eq_false_iff_ne.mpr hy)
  have hu : u = effect (.draw x y n) t := Host.Outcome.next.inj
    (hsecond.symm.trans (exec_of_ownFatal_eq_none ((ownFatal_draw_eq_none_iff x y n t).mpr (hi ▸ hrange))))
  obtain ⟨d, hdraws, hfb, -⟩ := effect_draw_draws x y n s
  obtain ⟨d', hdraws', hfb', hvf'⟩ := effect_draw_draws x y n t
  rw [hmem, hi, hregx, hregy] at hdraws'
  obtain ⟨hpixel, hmet⟩ := hdraws.again hdraws' (by rw [ht, hfb])
  have hcollision := hdraws'.collision
  simp only [Bool.false_eq_true, false_or] at hcollision
  refine ⟨?display, by rw [ht]; rfl, by rw [hu]; rfl, ?flag⟩
  case display =>
    rw [hu, hfb']
    exact Framebuffer.ext_pixel hpixel
  case flag => rw [hu, hvf', flagByte_eq_one_iff, hcollision, hmet]

end Sys2Proof.Machine
end
